-- ==== Sys2Proof/Word.lean ====
section
/-! DEFINITION. The words of the 32-bit bus and of the command register (spec 00_scope.md R13, R14). -/

namespace Sys2Proof

/-- A bus data word, a control register, a limb, a command word: 32 bits, bit 0 the least
significant (R13, R32, R110). -/
abbrev Word := BitVec 32

/-- One byte lane of the bus (R86). -/
abbrev Byte := BitVec 8

end Sys2Proof
end

