-- ==== Sys2Proof/Config.lean ====
section
/-! DEFINITION. The implementation parameters of spec 00_scope.md R10 and the free values.
The OPEN parameters `L` and `BASE` are a record that State carries and no step changes, so every
statement over states holds for every value of them (log 1). -/

namespace Sys2Proof

/-- The OPEN parameters of R10. -/
structure Params where
  /-- `L`: limbs of 32 bits in one big register, 1 to 1024 (R10, decision D2). -/
  limbs : Nat
  /-- `BASE`: bus address of device offset 0, 64 KiB aligned (R10, R80, decision D7). -/
  base : Nat
  deriving DecidableEq, Repr

/-- `W = 32*L` (R10). -/
def Params.width (p : Params) : Nat := 32 * p.limbs

/-- `2^W`: every big register holds a value below it (R33). -/
def Params.bound (p : Params) : Nat := 2 ^ p.width

/-- `MR_ROUNDS`, the witnesses drawn by MRPP: 20, fixed (R10). -/
def mrRounds : Nat := 20

/-- `ID_VALUE` (R10, R41). -/
def idValue : Word := 0x52530100#32

/-- Size in bytes of the device space (R80). -/
def spaceBytes : Nat := 0x10000

/-- The parameters `State.reset` is written for: `L = 1`, the convention of 95_test_vectors.md,
and `BASE = 0`. DESIGN CHOICE, log 1: the spec leaves both open. -/
def Params.default : Params := { limbs := 1, base := 0 }

/-- FREE VALUE, log 8: the data lanes of a read that gets a bus error, "any value" by
93_implementation_defined.md U8. The argument is the counter `State.fresh`. It has no body. -/
opaque Config.busErrorData : Nat → Word

end Sys2Proof
end

