-- ==== Sys2Proof/Syntax.lean ====
section
/-! DEFINITION. The commands of the block (the whole opcode map of spec 30_encoding.md R112), the
transactions and other inputs it meets (R19, 20_memory.md R84, R97, 70_reset_and_hazards.md R240),
and the host notation of 30_encoding.md R116. -/

namespace Sys2Proof

/-- The five commands (R112): one constructor per row of spec/opcode_table.json. No command has an
operand field (R113). -/
inductive Instr where
  /-- `R0 <- g^a mod n` (40_modexp.md R130) -/
  | modexp
  /-- `(R0, u, v) <- (gcd(a,b), u, v)` (41_xgcd.md R151) -/
  | xgcd
  /-- `R0 <- e^-1 mod m`, or NONCOPRIME (41_xgcd.md R156) -/
  | modinv
  /-- one Miller-Rabin witness (42_miller_rabin.md R183) -/
  | mrw
  /-- the 20-witness driver (42_miller_rabin.md R184) -/
  | mrpp
  deriving DecidableEq, Repr

/-- The six big registers (10_state.md R31). -/
inductive BigReg where
  | a | b | n | r0 | r1 | r2
  deriving DecidableEq, Repr

/-- What one bus transaction asks for. Only the low 32 bits of written data are kept: an access of
another size is an error and has no effect (R84; log 22). -/
inductive BusOp where
  | read
  | write (data : Word)
  deriving DecidableEq, Repr

/-- One bus transaction: what it asks for, how many bytes wide it is, and its bus address. -/
structure BusTxn where
  op : BusOp
  bytes : Nat
  addr : Nat
  deriving DecidableEq, Repr

/-- What the environment does, or which agent moves, in one step of the model (R19). -/
inductive Event where
  /-- one host bus transaction (R91) -/
  | bus (t : BusTxn)
  /-- a host bus transaction and an engine step that fall in the same step (R51, R216; log 13) -/
  | busAndEngine (t : BusTxn)
  /-- the host program executes its next statement (R116; log 14) -/
  | host
  /-- the engine takes its turn (R60) -/
  | engine
  /-- the witness source answers the outstanding request with any natural number (R97; log 12) -/
  | answer (value : Nat)
  /-- the witness source delivers an answer to a request that a reset has withdrawn (R242) -/
  | staleAnswer (value : Nat)
  /-- the reset input is asserted (R240) -/
  | assertReset
  /-- the reset input is released (R240) -/
  | releaseReset
  deriving DecidableEq, Repr

/-- A scratch variable `h0` to `h7` of the host notation (R116). -/
abbrev Scratch := Fin 8

/-- The lines of the host notation (R116). Labels are natural numbers and a `label:` line is a line
of its own (log 14). Offsets are device offsets. -/
inductive HostStmt where
  | wr (off : Nat) (imm : Word)
  | rd (k : Scratch) (off : Nat)
  | wrh (off : Nat) (k : Scratch)
  | addi (k j : Scratch) (imm : Word)
  | andi (k j : Scratch) (imm : Word)
  | bz (k : Scratch) (target : Nat)
  | bnz (k : Scratch) (target : Nat)
  | jmp (target : Nat)
  | halt
  | label (name : Nat)
  deriving DecidableEq, Repr

end Sys2Proof
end

