-- ==== Sys2Proof/Machine/State.lean ====
section
/-! DEFINITION. The state of the model: what spec 10_state.md R30 and R54 give the block, the two
parameters of R10, and the inputs and outputs of the agents around it (R19). All of it plain data. -/

namespace Sys2Proof.Machine

/-- Why the machine stops. Nothing of the spec stops it: a command error is a completion (60_exceptions.md
R212), a bus error is a response (20_memory.md R84), an unanswered request leaves the engine where it
is (60_exceptions.md R229). So there is no constructor and nobody raises one (log 17). Safe: a model
with no fault claims no stop. -/
inductive Fault where
  deriving DecidableEq, Repr

/-- Why the model gives no meaning. -/
inductive Refusal where
  /-- Raised by an arm of `exec` whose instruction has no meaning yet. No arm raises it. Safe. -/
  | notModelled (mnemonic : String)
  deriving DecidableEq, Repr

/-- The six big registers, each an unsigned integer (10_state.md R31, R33). That each is below `2^W`
is the invariant `BigRegs.wf`, which every operation keeps. -/
structure BigRegs where
  a : Nat
  b : Nat
  n : Nat
  r0 : Nat
  r1 : Nat
  r2 : Nat
  deriving DecidableEq, Repr

/-- The canonical form of the big registers: `0 <= x[X] < 2^W` (R33). -/
abbrev BigRegs.wf (p : Params) (g : BigRegs) : Prop :=
  g.a < p.bound ∧ g.b < p.bound ∧ g.n < p.bound ∧ g.r0 < p.bound ∧ g.r1 < p.bound ∧ g.r2 < p.bound

/-- The command error codes (60_exceptions.md R210). The reserved codes 0x6 to 0xF are never
reported, so they have no constructor. -/
inductive ErrCode where
  | none | illegal | divZero | nonCoprime | range | rng
  deriving DecidableEq, Repr

/-- The fields of STATUS but BUSY (10_state.md R44); BUSY is the engine phase (R54, log 4). -/
structure Status where
  err : Bool
  comp : Bool
  ncop : Bool
  usign : Bool
  vsign : Bool
  errcode : ErrCode
  wcnt : BitVec 5
  deriving DecidableEq, Repr

/-- The fields of INT_STATUS (R51). -/
structure IntStatus where
  doneP : Bool
  ovr : Bool
  deriving DecidableEq, Repr

/-- The engine phase (R40, R54). -/
inductive Phase where
  | idle | busy
  deriving DecidableEq, Repr

/-- One `draw_witness(lo, hi)` request (20_memory.md R97). -/
structure DrawRequest where
  lo : Nat
  hi : Nat
  deriving DecidableEq, Repr

/-- The engine's hidden state (R54): its phase, the outstanding witness request, the answer received
and not yet tested (the `a` of 42_miller_rabin.md R184), and the round counter. -/
structure Engine where
  phase : Phase
  request : Option DrawRequest
  answer : Option Nat
  drawn : Nat
  deriving DecidableEq, Repr

/-- No command in progress (R56). -/
def Engine.atRest : Engine := { phase := .idle, request := none, answer := none, drawn := 0 }

/-- What the block answers to a bus transaction. -/
inductive BusResponse where
  /-- no transaction yet -/
  | none
  /-- the data of a read (R82) -/
  | data (w : Word)
  /-- a write was taken (R91) -/
  | written
  /-- `raise BusError(off)` on a read: its data may not be used (R84, U8) -/
  | readError (off : Nat) (lanes : Word)
  /-- `raise BusError(off)` on a write (R84) -/
  | writeError (off : Nat)
  /-- the address is outside the block's space (R80, log 10) -/
  | elsewhere
  /-- the reset input is asserted: the transaction is not served (R240, log 11) -/
  | notServed
  deriving DecidableEq, Repr

/-- The host of 30_encoding.md R116: its program, the index of its next line, the scratch variables
`h0` to `h7`, and whether it has met `HALT`. -/
structure HostAgent where
  prog : List HostStmt
  pos : Nat
  scratch : Vector Word 8
  halted : Bool
  deriving DecidableEq, Repr

/-- "Scratch variables `h0` to `h7` of 32 bits, all 0 at program start" (R116). -/
def HostAgent.start (prog : List HostStmt) : HostAgent :=
  { prog := prog, pos := 0, scratch := Vector.replicate 8 0, halted := false }

/-- The address decode of 20_memory.md R81: what a device offset names. `beyond` is a limb index at
or above `L` inside a window (R83). -/
inductive Target where
  | id | param | ctrl | status | intStatus | cmd
  | limb (r : BigReg) (i : Nat)
  | beyond
  | reserved
  deriving DecidableEq, Repr


/-- The state of the model. -/
structure State where
  /-- the OPEN parameters of R10: no step changes them -/
  params : Params
  /-- A, B, N, R0, R1, R2 (R31) -/
  big : BigRegs
  /-- CTRL.IE (R43) -/
  ctrlIe : Bool
  /-- STATUS but BUSY (R44) -/
  status : Status
  /-- INT_STATUS (R51) -/
  intStatus : IntStatus
  /-- CMD (R52), the command in progress while busy (R54) -/
  cmd : Word
  /-- phase, witness request, round counter (R54) -/
  engine : Engine
  /-- the reset input is asserted (R240); the model's own field -/
  resetLine : Bool
  /-- the block's answer to the last bus transaction; the model's own field (log 9) -/
  response : BusResponse
  /-- which free value of Config comes next; the model's own field (log 8) -/
  fresh : Nat
  /-- what happens next, in order; the engine moves when it is empty (log 2) -/
  script : List Event
  /-- the host of R116 -/
  host : HostAgent
  deriving DecidableEq, Repr

/-- The state right after reset, for any parameters: the table of 10_state.md R56, and the model's own
fields at the values of log 20. -/
def State.atReset (p : Params) : State where
  params := p
  big := { a := 0, b := 0, n := 0, r0 := 0, r1 := 0, r2 := 0 }
  ctrlIe := false
  status :=
    { err := false, comp := false, ncop := false, usign := false, vsign := false,
      errcode := .none, wcnt := 0 }
  intStatus := { doneP := false, ovr := false }
  cmd := 0
  engine := Engine.atRest
  resetLine := false
  response := .none
  fresh := 0
  script := []
  host := HostAgent.start []

/-- The machine right after reset (R56, R240), for the parameters of log 1. -/
def State.reset : State := State.atReset Params.default

/-- The state of the block itself, R30 items 1 to 3, is at its reset value (R56). -/
abbrev State.blockAtReset (s : State) : Prop :=
  s.big = (State.atReset s.params).big ∧ s.ctrlIe = false ∧
  s.status = (State.atReset s.params).status ∧
  s.intStatus = (State.atReset s.params).intStatus ∧ s.cmd = 0 ∧ s.engine = Engine.atRest

end Sys2Proof.Machine
end

