-- ==== Sys2Proof/Machine/Flags.lean ====
section
/-! DEFINITION. The control-register words as the host reads them, the flag computations of the
commands, and the interrupt output (spec 10_state.md section 4, 60_exceptions.md section 3). -/

namespace Sys2Proof.Machine

/-- The 4-bit code of an error (60_exceptions.md R210). -/
def errCodeBits : ErrCode → BitVec 4
  | .none => 0x0#4
  | .illegal => 0x1#4
  | .divZero => 0x2#4
  | .nonCoprime => 0x3#4
  | .range => 0x4#4
  | .rng => 0x5#4

/-- STATUS.BUSY: 1 exactly while the phase is BUSY (10_state.md R45, R54). -/
def busy (s : State) : Bool := decide (s.engine.phase = .busy)

/-- A flag as one bit of a control register. -/
def flagBit (f : Bool) : BitVec 1 := BitVec.ofBool f

/-- The PARAM word, `0x00140000 + L` (R42): reserved 31:24, ROUNDS 23:16, LIMBS 15:0. -/
def paramWord (p : Params) : Word :=
  0#8 ++ (BitVec.ofNat 8 mrRounds ++ BitVec.ofNat 16 p.limbs)

/-- The CTRL word: IE in bit 0, all else reads 0 (R43). -/
def ctrlWord (s : State) : Word := 0#31 ++ flagBit s.ctrlIe

/-- The STATUS word, from bit 31 down to bit 0: 31:21 reserved, WCNT 20:16, 15:12 reserved, ERRCODE
11:8, 7:6 reserved, VSIGN, USIGN, NCOP, COMP, ERR, BUSY (R44). -/
def statusWord (s : State) : Word :=
  0#11 ++ (s.status.wcnt ++ (0#4 ++ (errCodeBits s.status.errcode ++ (0#2 ++
    (flagBit s.status.vsign ++ (flagBit s.status.usign ++ (flagBit s.status.ncop ++
      (flagBit s.status.comp ++ (flagBit s.status.err ++ flagBit (busy s))))))))))

/-- The INT_STATUS word: DONE_P in bit 0, OVR in bit 1 (R51). -/
def intStatusWord (s : State) : Word :=
  0#30 ++ (flagBit s.intStatus.ovr ++ flagBit s.intStatus.doneP)

/-- The interrupt output, `irq = CTRL.IE AND INT_STATUS.DONE_P` (60_exceptions.md R217). -/
def irq (s : State) : Bool := s.ctrlIe && s.intStatus.doneP

/-- `NCOP <- (g != 1)` (R48). -/
def ncopOf (g : Nat) : Bool := decide (g ≠ 1)

/-- The sign bit of a Bézout coefficient: 1 when it is negative, so 0 for zero (R36). -/
def signOf (c : Int) : Bool := decide (c < 0)

/-- W1C: writing 1 clears the bit, writing 0 leaves it (R51). -/
def writeOneToClear (old written : Bool) : Bool := old && !written

end Sys2Proof.Machine
end

