-- ==== Sys2Proof/Machine/Operands.lean ====
section
/-! DEFINITION. Big registers, their limbs, and the operands of the commands
(spec 10_state.md R31 to R34, 20_memory.md R81 to R83, 30_encoding.md R113). -/

namespace Sys2Proof.Machine

/-- `v[hi:lo]`, the field `(v div 2^lo) mod 2^(hi-lo+1)` of a non-negative integer (00_scope.md R13). -/
def field (v hi lo : Nat) : Nat := v / 2 ^ lo % 2 ^ (hi - lo + 1)

/-- The index of a big register (R31). -/
def regNumber : BigReg → Nat
  | .a => 0
  | .b => 1
  | .n => 2
  | .r0 => 3
  | .r1 => 4
  | .r2 => 5

/-- The big register of a number (R31). -/
def regOfNumber : Nat → Option BigReg
  | 0 => some .a
  | 1 => some .b
  | 2 => some .n
  | 3 => some .r0
  | 4 => some .r1
  | 5 => some .r2
  | _ => none

/-- The registers the host may write: A, B and N (R31). -/
def hostWritable : BigReg → Bool
  | .a => true
  | .b => true
  | .n => true
  | .r0 => false
  | .r1 => false
  | .r2 => false

/-- `x[X]` (R14). -/
def getBig (r : BigReg) (s : State) : Nat :=
  match r with
  | .a => s.big.a
  | .b => s.big.b
  | .n => s.big.n
  | .r0 => s.big.r0
  | .r1 => s.big.r1
  | .r2 => s.big.r2

/-- `x[X] <- v`: a register is W bits wide, so it keeps `v` below `2^W` (R31, R33; that no result is
truncated is R11 and R155; log 7). -/
def setBig (r : BigReg) (v : Nat) (s : State) : State :=
  let v' := v % s.params.bound
  match r with
  | .a => { s with big := { s.big with a := v' } }
  | .b => { s with big := { s.big with b := v' } }
  | .n => { s with big := { s.big with n := v' } }
  | .r0 => { s with big := { s.big with r0 := v' } }
  | .r1 => { s with big := { s.big with r1 := v' } }
  | .r2 => { s with big := { s.big with r2 := v' } }

/-- Limb `i` of a value: bits `32*i+31 : 32*i` (R32). -/
def limbOf (x i : Nat) : Word := BitVec.ofNat 32 (field x (32 * i + 31) (32 * i))

/-- `x - limb_i*2^(32*i) + v*2^(32*i)` (R82). -/
def putLimb (x i : Nat) (v : Word) : Nat :=
  x - (limbOf x i).toNat * 2 ^ (32 * i) + v.toNat * 2 ^ (32 * i)

/-- The start of the window of register number `r`, `0x1000 * (r + 1)` (R81). -/
def windowBase (r : BigReg) : Nat := 0x1000 * (regNumber r + 1)

/-- MODEXP: A is the base `g` (R34). -/
def modexpBase (s : State) : Nat := getBig .a s

/-- MODEXP: B is the exponent `a` (R34). -/
def modexpExponent (s : State) : Nat := getBig .b s

/-- MODEXP: N is the modulus `n` (R34). -/
def modexpModulus (s : State) : Nat := getBig .n s

/-- XGCD: A is `a` (R34). -/
def xgcdLeft (s : State) : Nat := getBig .a s

/-- XGCD: B is `b` (R34). -/
def xgcdRight (s : State) : Nat := getBig .b s

/-- MODINV: A is the value `e` to invert (R34). -/
def modinvValue (s : State) : Nat := getBig .a s

/-- MODINV: N is the modulus `m` (R34). -/
def modinvModulus (s : State) : Nat := getBig .n s

/-- MRW: N is the candidate `n` (R34). -/
def mrwCandidate (s : State) : Nat := getBig .n s

/-- MRW: A is the witness `a` (R34). -/
def mrwWitness (s : State) : Nat := getBig .a s

/-- MRPP: N is the candidate `n`; A is not read (R34). -/
def mrppCandidate (s : State) : Nat := getBig .n s

end Sys2Proof.Machine
end

