-- ==== Sys2Proof/Machine/Ops.lean ====
section
/-! DEFINITION. The operations the meanings and the agents share: the bus (spec 20_memory.md), the life
of a command (10_state.md section 8), the error completion, which is how this hardware takes an
exception, beside what ends its handling (60_exceptions.md), reset, and the witness port. -/

namespace Sys2Proof.Machine

/-! ### Reset -/

/-- The state change of a reset of either kind (70_reset_and_hazards.md R240, R241, R242): every piece
of the block takes the value of R56. The parameters are constants, and the other agents are not the
block's. -/
def resetBlock (s : State) : State :=
  { s with
    big := (State.atReset s.params).big
    ctrlIe := (State.atReset s.params).ctrlIe
    status := (State.atReset s.params).status
    intStatus := (State.atReset s.params).intStatus
    cmd := (State.atReset s.params).cmd
    engine := (State.atReset s.params).engine }

/-- The reset input is asserted: the block is at its reset values from then on (R240). -/
def assertReset (s : State) : State := { resetBlock s with resetLine := true }

/-- The reset input is released: the block is at its reset values (R240). Releasing an input that is
not asserted is no event (log 11). -/
def releaseReset (s : State) : State :=
  if s.resetLine then { resetBlock s with resetLine := false } else s

/-! ### The life of a command -/

/-- Acceptance of the word `w` (10_state.md R58). -/
def accept (w : Word) (s : State) : State :=
  { s with
    cmd := w
    status := { s.status with err := false, errcode := .none }
    engine := { Engine.atRest with phase := .busy } }

/-- BUSY and the phase go to 0 and IDLE, the hidden state of the command is gone, DONE_P is set: the
part that every completion shares (R61, R212). -/
def complete (s : State) : State :=
  { s with engine := Engine.atRest, intStatus := { s.intStatus with doneP := true } }

/-- `commit` (R61), after the command's results are written. ERR and ERRCODE stay as the acceptance
left them. -/
def commit (s : State) : State := complete s

/-- `raise CmdError(code)`: the error completion (60_exceptions.md R212), taken by every command error.
Nothing else is saved, no mode changes, control goes nowhere (R220). -/
def raiseCmdError (code : ErrCode) (s : State) : State :=
  complete { s with status := { s.status with err := true, errcode := code } }

/-- The host's write of `v` to INT_STATUS (R51, R218). There is no return from an error (R221): writing 1
to DONE_P is what ends the handling of a completion. -/
def clearInt (v : Word) (s : State) : State :=
  { s with
    intStatus :=
      { doneP := writeOneToClear s.intStatus.doneP (v.getLsbD 0)
        ovr := writeOneToClear s.intStatus.ovr (v.getLsbD 1) } }

/-- A CMD or operand write is dropped: OVR (R59, 20_memory.md R87, 60_exceptions.md R214). -/
def overrun (s : State) : State := { s with intStatus := { s.intStatus with ovr := true } }

/-! ### Result flags -/

/-- `STATUS.NCOP <- (g != 1)` (R48). -/
def setNcop (g : Nat) (s : State) : State := { s with status := { s.status with ncop := ncopOf g } }

/-- `STATUS.USIGN <- (u < 0)`, `STATUS.VSIGN <- (v < 0)` (R49). -/
def setSigns (u v : Int) (s : State) : State :=
  { s with status := { s.status with usign := signOf u, vsign := signOf v } }

/-- `STATUS.COMP <- verdict` (R47). -/
def setComp (verdict : Bool) (s : State) : State :=
  { s with status := { s.status with comp := verdict } }

/-- `STATUS.WCNT <- r` (R50), a field of 5 bits (log 21). -/
def setWcnt (r : Nat) (s : State) : State :=
  { s with status := { s.status with wcnt := BitVec.ofNat 5 r } }

/-! ### The device space -/

/-- The address decode of 20_memory.md R81 and R83, for an offset that is a multiple of 4. -/
def decodeOffset (p : Params) (off : Nat) : Target :=
  if off < 0x1000 then
    match off with
    | 0x0000 => .id
    | 0x0004 => .param
    | 0x0008 => .ctrl
    | 0x000C => .status
    | 0x0010 => .intStatus
    | 0x0014 => .cmd
    | _ => .reserved
  else
    match regOfNumber (off / 0x1000 - 1) with
    | some r => if off % 0x1000 / 4 < p.limbs then .limb r (off % 0x1000 / 4) else .beyond
    | none => .reserved

/-- What a read of a target returns (R81, R82, R83, R85). -/
def readTarget (s : State) : Target → Word
  | .id => idValue
  | .param => paramWord s.params
  | .ctrl => ctrlWord s
  | .status => statusWord s
  | .intStatus => intStatusWord s
  | .cmd => s.cmd
  | .limb r i => limbOf (getBig r s) i
  | .beyond => 0
  | .reserved => 0

/-- `MemRead(off, 4)` (00_scope.md R14). -/
def memRead (s : State) (off : Nat) : Word := readTarget s (decodeOffset s.params off)

/-- A write of `v` to CTRL (10_state.md R43): SRST wins over the written IE. -/
def writeCtrl (v : Word) (s : State) : State :=
  if v.getLsbD 1 then resetBlock s else { s with ctrlIe := v.getLsbD 0 }

/-- A write of `v` to CMD: acceptance while idle (R58), dropped while busy (R59). -/
def writeCmd (v : Word) (s : State) : State := if busy s then overrun s else accept v s

/-- A write of `v` to limb `i` of a big register (R82, R87, R88). -/
def writeLimb (r : BigReg) (i : Nat) (v : Word) (s : State) : State :=
  if hostWritable r then
    if busy s then overrun s else setBig r (putLimb (getBig r s) i v) s
  else s

/-- What a write of `v` to a target does; the read-only registers, the limbs at `L` and above and the
reserved offsets ignore it (R83, R85, R88). -/
def writeTarget (v : Word) (s : State) : Target → State
  | .id => s
  | .param => s
  | .ctrl => writeCtrl v s
  | .status => s
  | .intStatus => clearInt v s
  | .cmd => writeCmd v s
  | .limb r i => writeLimb r i v s
  | .beyond => s
  | .reserved => s

/-- `MemWrite(off, 4, v)` (00_scope.md R14). -/
def memWrite (off : Nat) (v : Word) (s : State) : State :=
  writeTarget v s (decodeOffset s.params off)

/-! ### Bus transactions -/

/-- The transaction's address lies in the block's 64 KiB (R80). -/
def selected (s : State) (t : BusTxn) : Bool :=
  decide (s.params.base ≤ t.addr) && decide (t.addr < s.params.base + spaceBytes)

/-- The device offset of the address (R80). -/
def offsetOf (s : State) (t : BusTxn) : Nat := t.addr - s.params.base

/-- The only access the block accepts: 32 bits, at a multiple of 4 (R84). -/
def accessOk (s : State) (t : BusTxn) : Bool :=
  decide (t.bytes = 4) && decide (offsetOf s t % 4 = 0)

/-- `raise BusError(off)`: an error response, and no effect on any state of the block (R84, R213). The
data lanes of a read are a free value (U8, log 8). -/
def raiseBusError (t : BusTxn) (s : State) : State :=
  match t.op with
  | .read =>
    { s with
      response := .readError (offsetOf s t) (Config.busErrorData s.fresh)
      fresh := s.fresh + 1 }
  | .write _ => { s with response := .writeError (offsetOf s t) }

/-- One bus transaction (R84, R91). During reset it is not served (70_reset_and_hazards.md R240), and an
address outside the space is not the block's (R80). -/
def serve (t : BusTxn) (s : State) : State :=
  if s.resetLine then { s with response := .notServed }
  else if !selected s t then { s with response := .elsewhere }
  else if !accessOk s t then raiseBusError t s
  else
    match t.op with
    | .read => { s with response := .data (memRead s (offsetOf s t)) }
    | .write v => { memWrite (offsetOf s t) v s with response := .written }

/-! ### The witness port -/

/-- `draw_witness(lo, hi)`: a request is outstanding and the command is suspended (20_memory.md R97,
10_state.md R54). -/
def drawWitness (lo hi : Nat) (s : State) : State :=
  { s with engine := { s.engine with request := some { lo := lo, hi := hi }, answer := none } }

/-- The witness source delivers an answer. It answers the outstanding request; with none outstanding it
is discarded (R97 item 6, R242). The round counter counts the witnesses drawn (R54; log 21). -/
def deliver (value : Nat) (s : State) : State :=
  match s.engine.request with
  | some _ =>
    { s with
      engine :=
        { s.engine with request := none, answer := some value, drawn := s.engine.drawn + 1 } }
  | none => s

/-- An answer to a request that a reset has withdrawn is discarded (R242). -/
def discard (_value : Nat) (s : State) : State := s

/-! ### Presenting a command -/

/-- The word `w` is the command in progress and the engine has the next turn: what the acceptance of
R58 leaves, with nothing scheduled before the engine (log 3). -/
def presentCommand (w : Word) (s : State) : State :=
  { accept w s with script := [], resetLine := false }

end Sys2Proof.Machine
end

