-- ==== Sys2Proof/Machine/Mexp.lean ====
section
/-! DEFINITION. Unit MEXP: modular exponentiation (spec 40_modexp.md). -/

namespace Sys2Proof.Machine

/-- The loop variables of `MODEXP_core` (R131). -/
structure ModexpVars where
  r : Nat
  b : Nat
  e : Nat
  deriving DecidableEq, Repr

/-- One pass of the loop body of R131, modulo `n`. -/
def modexpPass (n : Nat) (v : ModexpVars) : ModexpVars where
  r := if v.e % 2 = 1 then v.r * v.b % n else v.r
  b := v.b * v.b % n
  e := v.e / 2

/-- `while e > 0` of R131. `e` falls in every pass, so as many turns as the exponent are enough. -/
def modexpLoop (n : Nat) : Nat → ModexpVars → ModexpVars
  | 0, v => v
  | turns + 1, v => if v.e = 0 then v else modexpLoop n turns (modexpPass n v)

/-- The start of R131; the accumulator starts at `1 mod n` (R132). -/
def modexpStart (g a n : Nat) : ModexpVars := { r := 1 % n, b := g % n, e := a }

/-- `MODEXP_core(g, a, n)` (R131). -/
def modexpCore (g a n : Nat) : Nat := (modexpLoop n a (modexpStart g a n)).r

/-- MODEXP (R130). -/
def execModexp (s : State) : Host.Outcome State Fault Refusal :=
  if modexpModulus s = 0 then .next (raiseCmdError .divZero s)
  else .next (commit (setBig .r0 (modexpCore (modexpBase s) (modexpExponent s) (modexpModulus s)) s))

end Sys2Proof.Machine
end

