-- ==== Sys2Proof/Machine/Xgcd.lean ====
section
/-! DEFINITION. Unit XGCD: the extended Euclidean solver and the modular inverse (spec 41_xgcd.md). -/

namespace Sys2Proof.Machine

/-- The loop variables of `XGCD_core` (R150): "`u`, `s` and `x` may be negative; `g`, `y`, `t` and `q`
never are". -/
structure XgcdVars where
  u : Int
  g : Nat
  x : Int
  y : Nat
  deriving DecidableEq, Repr

/-- One pass of the loop body of R150. -/
def xgcdPass (w : XgcdVars) : XgcdVars where
  u := w.x
  g := w.y
  x := w.u - (w.g / w.y : Nat) * w.x
  y := w.g % w.y

/-- `while y != 0` of R150. `y` falls in every pass (R152), so `y + 1` turns are enough. -/
def xgcdLoop : Nat → XgcdVars → XgcdVars
  | 0, w => w
  | turns + 1, w => if w.y = 0 then w else xgcdLoop turns (xgcdPass w)

/-- The start of R150. -/
def xgcdStart (a b : Nat) : XgcdVars := { u := 1, g := a, x := 0, y := b }

/-- The triple `(g, u, v)` of R150. -/
structure Bezout where
  g : Nat
  u : Int
  v : Int
  deriving DecidableEq, Repr

/-- `XGCD_core(a, b)` (R150); the division at the end is exact (R153). -/
def xgcdCore (a b : Nat) : Bezout :=
  let w := xgcdLoop (b + 1) (xgcdStart a b)
  { g := w.g, u := w.u, v := ((w.g : Int) - a * w.u) / b }

/-- XGCD (R151): `R0 <- g`, `R1`, `R2` and the signs by sign-magnitude (10_state.md R36), NCOP. -/
def execXgcd (s : State) : Host.Outcome State Fault Refusal :=
  if xgcdRight s = 0 then .next (raiseCmdError .divZero s)
  else
    let c := xgcdCore (xgcdLeft s) (xgcdRight s)
    .next (commit (setNcop c.g (setSigns c.u c.v
      (setBig .r2 c.v.natAbs (setBig .r1 c.u.natAbs (setBig .r0 c.g s))))))

/-- MODINV (R156): NCOP is written on both paths below the zero check. -/
def execModinv (s : State) : Host.Outcome State Fault Refusal :=
  if modinvModulus s = 0 then .next (raiseCmdError .divZero s)
  else
    let c := xgcdCore (modinvValue s) (modinvModulus s)
    if c.g ≠ 1 then .next (raiseCmdError .nonCoprime (setNcop c.g s))
    else .next (commit (setBig .r0 (c.u % (modinvModulus s : Int)).toNat (setNcop c.g s)))

end Sys2Proof.Machine
end

