-- ==== Sys2Proof/Machine/Mrt.lean ====
section
/-! DEFINITION. Unit MRT: the Miller-Rabin primality tester (spec 42_miller_rabin.md). It shares the
kernels of MEXP and XGCD (R189). -/

namespace Sys2Proof.Machine

/-- The loop variables of `DECOMP` (R182). -/
structure Decomp where
  k : Nat
  q : Nat
  deriving DecidableEq, Repr

/-- `while q mod 2 = 0` of R182. `q` falls in every pass for `m >= 1`, so `m` turns are enough. -/
def decompLoop : Nat → Decomp → Decomp
  | 0, d => d
  | turns + 1, d =>
    if d.q % 2 = 0 then decompLoop turns { k := d.k + 1, q := d.q / 2 } else d

/-- `DECOMP(m)` for `m >= 1` (R182). -/
def decomp (m : Nat) : Decomp := decompLoop m { k := 0, q := m }

/-- Steps 5 and 6 of R181 with `k` values left to test: `true` is "composite". -/
def squareTest (n : Nat) : Nat → Nat → Bool
  | 0, _ => true
  | k + 1, x => if x = n - 1 then false else squareTest n k (x * x % n)

/-- `MR_witness(n, a)` (R181): `true` is 1, composite; `false` is 0, not proven composite (R180). -/
def mrWitness (n a : Nat) : Bool :=
  if n % 2 = 0 then true
  else if 1 < (xgcdCore a n).g ∧ (xgcdCore a n).g < n then true
  else
    let d := decomp (n - 1)
    let x := modexpCore a d.q n
    if x = 1 then false else squareTest n d.k x

/-- MRW (R183). -/
def execMrw (s : State) : Host.Outcome State Fault Refusal :=
  if mrwCandidate s = 1 then .next (raiseCmdError .range s)
  else .next (commit (setComp (mrWitness (mrwCandidate s) (mrwWitness s)) s))

/-- A verdict of MRPP with its witness count, committed (R184). -/
def mrppVerdict (verdict : Bool) (count : Nat) (s : State) : State :=
  commit (setWcnt count (setComp verdict s))

/-- The head of the `for` loop of R184: the next round draws a witness from `[2, n - 1)`; after
MR_ROUNDS rounds the candidate is accepted. -/
def mrppNextRound (s : State) : State :=
  if s.engine.drawn < mrRounds then drawWitness 2 (mrppCandidate s - 1) s
  else mrppVerdict false mrRounds s

/-- The body of the `for` loop of R184 once witness `a` has been drawn, in round `s.engine.drawn`:
`a < 2 or a > n - 2` is an RNG error, a composite verdict ends the command (R186). -/
def mrppTest (a : Nat) (s : State) : State :=
  if a < 2 ∨ mrppCandidate s - 2 < a then raiseCmdError .rng s
  else if mrWitness (mrppCandidate s) a then mrppVerdict true s.engine.drawn s
  else mrppNextRound s

/-- MRPP (R184, R185), one engine step of it: the small and even candidates, else the round loop from
where the last request suspended it (10_state.md R60; log 6). -/
def execMrpp (s : State) : Host.Outcome State Fault Refusal :=
  let n := mrppCandidate s
  if n < 2 then .next (mrppVerdict true 0 s)
  else if n = 2 ∨ n = 3 then .next (mrppVerdict false 0 s)
  else if n % 2 = 0 then .next (mrppVerdict true 0 s)
  else
    match s.engine.answer with
    | some a => .next (mrppTest a s)
    | none => .next (mrppNextRound s)

end Sys2Proof.Machine
end

