-- ==== Sys2Proof/WellFormed.lean ====
section
/-! DEFINITION. What is well formed: parameters, commands, host statements and host programs. -/

namespace Sys2Proof

/-- `1 <= L <= 1024` and `BASE` 64 KiB aligned (R10). -/
def Params.wf (p : Params) : Bool :=
  decide (1 ≤ p.limbs) && decide (p.limbs ≤ 1024) && decide (p.base % spaceBytes = 0)

/-- Every command is well formed: no command has an immediate, a register-select field or an operand
mode (R113), so there is nothing to check. One line per constructor, so that a command with a field
cannot slip past. -/
def Instr.wf : Instr → Bool
  | .modexp => true
  | .xgcd => true
  | .modinv => true
  | .mrw => true
  | .mrpp => true

/-- A device offset that a 32-bit access may use: inside the 64 KiB space (R80) and a multiple of 4
(R84). -/
def offsetWf (off : Nat) : Bool := decide (off < spaceBytes) && decide (off % 4 = 0)

/-- "Each `WR`, `WRH` and `RD` is exactly one 32-bit aligned bus transaction" (R116). -/
def HostStmt.wf : HostStmt → Bool
  | .wr off _ => offsetWf off
  | .rd _ off => offsetWf off
  | .wrh off _ => offsetWf off
  | .addi _ _ _ => true
  | .andi _ _ _ => true
  | .bz _ _ => true
  | .bnz _ _ => true
  | .jmp _ => true
  | .halt => true
  | .label _ => true

/-- The label a statement may continue at (R116). -/
def HostStmt.targets : HostStmt → List Nat
  | .bz _ l => [l]
  | .bnz _ l => [l]
  | .jmp l => [l]
  | _ => []

/-- The label a line declares. -/
def HostStmt.declares : HostStmt → List Nat
  | .label l => [l]
  | _ => []

/-- A host program is well formed when its statements are, every label it continues at is declared,
and no label is declared twice (R116: "`label:` names the next statement"). -/
def programWf (prog : List HostStmt) : Bool :=
  prog.all HostStmt.wf &&
  (prog.flatMap HostStmt.targets).all (fun l => (prog.flatMap HostStmt.declares).contains l) &&
  decide (prog.flatMap HostStmt.declares).Nodup

end Sys2Proof
end

