-- ==== Sys2Proof/Decode.lean ====
section
/-! DEFINITION. The decoder of command words, the encoder, and the assembler syntax
(spec 30_encoding.md R110 to R115). -/

namespace Sys2Proof

/-- Why a word or a byte string is no command, by name. -/
inductive DecodeError where
  /-- bits 31:4 are not 0 (R111, R114) -/
  | reservedBits
  /-- OP is not one of 1 to 5 (R112, R114) -/
  | illegalOp
  /-- fewer than four bytes: a command is one 32-bit word (R110) -/
  | truncated
  deriving DecidableEq, Repr

/-- Bits 3:0, the field OP (R111). -/
def opField (w : Word) : BitVec 4 := w.extractLsb' 0 4

/-- Bits 31:4, the field RSV (R111). -/
def rsvField (w : Word) : BitVec 28 := w.extractLsb' 4 28

/-- The opcode map (R112). -/
def decodeOp (op : BitVec 4) : Except DecodeError Instr :=
  match op.toNat with
  | 1 => .ok .modexp
  | 2 => .ok .xgcd
  | 3 => .ok .modinv
  | 4 => .ok .mrw
  | 5 => .ok .mrpp
  | _ => .error .illegalOp

/-- The decode of R114: total on the 2^32 words, each of them a command or illegal. -/
def decodeCmd (w : Word) : Except DecodeError Instr :=
  if rsvField w ≠ 0 then .error .reservedBits else decodeOp (opField w)

/-- The bus data word of four byte lanes: lane `j` carries bits `8*j+7 : 8*j` (R86). -/
def wordOfLanes (l0 l1 l2 l3 : Byte) : Word := l3 ++ (l2 ++ (l1 ++ l0))

/-- Byte lane `j` of a bus data word (R86). -/
def laneOf (w : Word) (j : Nat) : Byte := w.extractLsb' (8 * j) 8

/-- A command from the bytes of its word, the least significant first (R86, R110; log 16): total on
every byte string, with what follows the word. -/
def decodeBytes : List Byte → Except DecodeError (Instr × List Byte)
  | l0 :: l1 :: l2 :: l3 :: rest => (decodeCmd (wordOfLanes l0 l1 l2 l3)).map fun i => (i, rest)
  | _ => .error .truncated

/-- The word of each command (R112). -/
def encode : Instr → Word
  | .modexp => 0x00000001#32
  | .xgcd => 0x00000002#32
  | .modinv => 0x00000003#32
  | .mrw => 0x00000004#32
  | .mrpp => 0x00000005#32

/-- The four bytes of a word, lane 0 first (R86). -/
def bytesOfWord (w : Word) : List Byte := [laneOf w 0, laneOf w 1, laneOf w 2, laneOf w 3]

/-- The bytes of a command's word. -/
def encodeBytes (i : Instr) : List Byte := bytesOfWord (encode i)

/-- The instruction the decoder reads from the row-numbered bits `w` of an instruction of `nbits`
bits, the bits above `nbits` being 0. Every command is one 32-bit word (R110), so bits past the
first word belong to no command. -/
def decodeTableWord (nbits w : Nat) : Option Instr :=
  if w % 2 ^ nbits < 2 ^ 32 then
    match decodeBytes (bytesOfWord (BitVec.ofNat 32 (w % 2 ^ nbits))) with
    | .ok (i, _) => some i
    | .error _ => none
  else none

/-- A command is written as its mnemonic alone (R115). -/
def mnemonicOf : Instr → String
  | .modexp => "MODEXP"
  | .xgcd => "XGCD"
  | .modinv => "MODINV"
  | .mrw => "MRW"
  | .mrpp => "MRPP"

/-- The assembler: a mnemonic, with no operands, names a command (R115). -/
def assemble (text : String) : Option Instr :=
  [Instr.modexp, .xgcd, .modinv, .mrw, .mrpp].find? fun i => mnemonicOf i == text

/-- The source's function names and the commands they map to (R115). -/
def sourceFunction (name : String) : Option Instr :=
  if name = "mod_pow" then some .modexp
  else if name = "extended_gcd" then some .xgcd
  else if name = "is_probably_prime" then some .mrpp
  else none

end Sys2Proof
end

