-- ==== Sys2Proof/Machine/HostNotation.lean ====
section
/-! DEFINITION. The host of spec 30_encoding.md R116 and the pseudo-instructions of R117. The host
notation is not part of the block; it gives the programs of 95_test_vectors.md their meaning (log 14). -/

namespace Sys2Proof.Machine

/-- `hK` (R116). -/
def scratchOf (s : State) (k : Scratch) : Word := s.host.scratch[k]

/-- `hK <- w` (R116). -/
def setScratch (k : Scratch) (w : Word) (s : State) : State :=
  { s with host := { s.host with scratch := s.host.scratch.set k w } }

/-- The host continues at the next line. -/
def advance (s : State) : State := { s with host := { s.host with pos := s.host.pos + 1 } }

/-- Where the line `label:` stands. -/
def findLabel (prog : List HostStmt) (l : Nat) : Option Nat :=
  prog.findIdx? fun st => decide (st = .label l)

/-- "Continue at `label`" (R116). A label that no line declares leaves no next line (log 14). -/
def continueAt (l : Nat) (s : State) : State :=
  { s with host := { s.host with pos := (findLabel s.host.prog l).getD s.host.prog.length } }

/-- The host's 32-bit access at a device offset: "the host adds `BASE`" (R116). -/
def hostTxn (s : State) (op : BusOp) (off : Nat) : BusTxn :=
  { op := op, bytes := 4, addr := s.params.base + off }

/-- The data lanes of a response, where it has them. -/
def responseData : BusResponse → Option Word
  | .data w => some w
  | .readError _ lanes => some lanes
  | .none => none
  | .written => none
  | .writeError _ => none
  | .elsewhere => none
  | .notServed => none

/-- The word a read gave the host. Where the block drove no data, the host has a free value
(20_memory.md R84, U8; log 8, log 14). -/
def receive (k : Scratch) (s : State) : State :=
  match responseData s.response with
  | some w => setScratch k w s
  | none => setScratch k (Config.busErrorData s.fresh) { s with fresh := s.fresh + 1 }

/-- A `WR` or `WRH`: one bus write. While the reset input is asserted the access is not served and the
host stays at its line (log 11). -/
def hostWrite (off : Nat) (w : Word) (s : State) : State :=
  if s.resetLine then serve (hostTxn s (.write w) off) s
  else advance (serve (hostTxn s (.write w) off) s)

/-- An `RD`: one bus read, its data into `hK`. -/
def hostRead (k : Scratch) (off : Nat) (s : State) : State :=
  if s.resetLine then serve (hostTxn s .read off) s
  else advance (receive k (serve (hostTxn s .read off) s))

/-- The meaning of one line (R116). -/
def hostStmt (st : HostStmt) (s : State) : State :=
  match st with
  | .wr off imm => hostWrite off imm s
  | .rd k off => hostRead k off s
  | .wrh off k => hostWrite off (scratchOf s k) s
  | .addi k j imm => advance (setScratch k (scratchOf s j + imm) s)
  | .andi k j imm => advance (setScratch k (scratchOf s j &&& imm) s)
  | .bz k l => if scratchOf s k = 0 then continueAt l s else advance s
  | .bnz k l => if scratchOf s k ≠ 0 then continueAt l s else advance s
  | .jmp l => continueAt l s
  | .halt => { s with host := { s.host with halted := true } }
  | .label _ => advance s

/-- The host executes its next line; a host that has ended does nothing (R116). -/
def hostStep (s : State) : State :=
  if s.host.halted then s
  else
    match s.host.prog[s.host.pos]? with
    | some st => hostStmt st s
    | none => s

/-! ### Pseudo-instructions (R117) -/

/-- `LDBIG X, value`: one `WR` per limb, limb 0 first. -/
def ldbig (limbs : Nat) (r : BigReg) (value : Nat) : List HostStmt :=
  (List.range limbs).map fun i => .wr (windowBase r + 4 * i) (limbOf value i)

/-- `ISSUE mnemonic`. -/
def issue (i : Instr) : List HostStmt := [.wr 0x014 (encode i)]

/-- `POLL`, with the fresh label `p`. -/
def poll (p : Nat) : List HostStmt :=
  [.label p, .rd 7 0x00C, .andi 7 7 1, .bnz 7 p]

/-- `RUN mnemonic`, with the fresh label `p` of its `POLL`. -/
def runCmd (i : Instr) (p : Nat) : List HostStmt := issue i ++ poll p

/-- `CHKERR label`. -/
def chkerr (l : Nat) : List HostStmt := [.rd 6 0x00C, .andi 6 6 2, .bnz 6 l]

/-- `CLRINT`. -/
def clrint : List HostStmt := [.wr 0x010 0x00000003#32]

end Sys2Proof.Machine
end

