-- ==== Sys2Proof/Machine/Agents.lean ====
section
/-! DEFINITION. The turns of the agents (spec 00_scope.md R19): the engine's turn, and what each event
of the environment does. -/

namespace Sys2Proof.Machine

/-- The evaluation of the word in CMD (10_state.md R60): the decode of 30_encoding.md R114, then the
command's meaning, or ILLEGAL. The meanings do not look at the phase; `engineStep` does (log 18). -/
def evaluate (s : State) : Host.Outcome State Fault Refusal :=
  match decodeCmd s.cmd with
  | .ok i => exec i s
  | .error _ => .next (raiseCmdError .illegal s)

/-- The engine may take its step: phase BUSY and no witness request outstanding (R60). -/
def engineReady (s : State) : Bool := busy s && s.engine.request.isNone

/-- The engine's turn: it evaluates the command if it may; idle, or stuck at an unanswered request, it
changes nothing (R60, 60_exceptions.md R228, R229). -/
def engineStep (s : State) : Host.Outcome State Fault Refusal :=
  if engineReady s then evaluate s else .next s

/-- A bus transaction and an engine step that fall in the same step: the write comes first, so that a
completion wins over a clear of DONE_P (R51) and a reset wins over a completion (R216). A command that
this very transaction issues does not complete in it (R60; log 13). -/
def serveWithEngine (t : BusTxn) (s : State) : Host.Outcome State Fault Refusal :=
  if busy s then engineStep (serve t s) else .next (serve t s)

/-- What an event does. -/
def perform (e : Event) (s : State) : Host.Outcome State Fault Refusal :=
  match e with
  | .bus t => .next (serve t s)
  | .busAndEngine t => serveWithEngine t s
  | .host => .next (hostStep s)
  | .engine => engineStep s
  | .answer value => .next (deliver value s)
  | .staleAnswer value => .next (discard value s)
  | .assertReset => .next (assertReset s)
  | .releaseReset => .next (releaseReset s)

/-- The next event of the script happens; when nothing is scheduled it is the engine's turn (log 2). -/
def nextTurn (s : State) : Host.Outcome State Fault Refusal :=
  match s.script with
  | [] => engineStep s
  | e :: rest => perform e { s with script := rest }

/-- The command whose bits are `w`, of a row of `nbits` bits, presented to the engine (log 3). -/
def presentTableWord (s : State) (nbits w : Nat) : State :=
  presentCommand (BitVec.ofNat 32 (w % 2 ^ nbits)) s

end Sys2Proof.Machine
end

