-- ==== Sys2Proof/Machine/Step.lean ====
section
/-! DEFINITION. One step of the machine, and how an instruction is placed where the next step runs it. -/

namespace Sys2Proof.Machine

/-- One step: the next turn of the schedule (00_scope.md R19, 20_memory.md R91). -/
def step (s : State) : Host.Outcome State Fault Refusal := nextTurn s

/-- `s` with the instruction whose bits are `w` as the command in progress and nothing scheduled before
the engine's turn, so that the next step runs it. The block fetches nothing (10_state.md R40): a command
comes from the host's CMD write (R58), and this stands for that write (log 3). -/
def State.withFetchWord (s : State) (nbits w : Nat) : State := presentTableWord s nbits w

end Sys2Proof.Machine
end

