-- ==== Sys2Proof/Safety.lean ====
section
/-! DEFINITION. What holds in every state the machine can reach, in the terms the statements use. Each
clause is a sentence of the spec about the whole machine. -/

namespace Sys2Proof.Machine

/-- The command in progress is an MRPP that draws: the phase is BUSY, CMD is the MRPP word, and the
candidate is odd and at least 5 (20_memory.md R97 item 2). -/
abbrev State.drawing (s : State) : Prop :=
  s.engine.phase = .busy ∧ s.cmd = encode .mrpp ∧ s.big.n % 2 = 1 ∧ 5 ≤ s.big.n

/-- `ERR = 1` if and only if `ERRCODE != 0` (10_state.md R46). -/
abbrev State.errMatchesCode (s : State) : Prop := s.status.err = true ↔ s.status.errcode ≠ .none

/-- From acceptance to completion ERR and ERRCODE are 0 (R46, R58). -/
abbrev State.busyWithoutError (s : State) : Prop :=
  s.engine.phase = .busy → s.status.err = false ∧ s.status.errcode = .none

/-- Idle, the engine holds nothing (R54, R56). -/
abbrev State.idleAtRest (s : State) : Prop :=
  s.engine.phase = .idle → s.engine = Engine.atRest

/-- An outstanding request is MRPP's `draw_witness(2, n - 1)`, with no answer waiting and a round left
(20_memory.md R97, 10_state.md R54). -/
abbrev State.requestIsMrpp (s : State) : Prop :=
  ∀ r ∈ s.engine.request,
    s.drawing ∧ r = { lo := 2, hi := s.big.n - 1 } ∧ s.engine.answer = none ∧ s.engine.drawn < mrRounds

/-- An answer waits only inside an MRPP, as the answer of one of the rounds 1 to 20. -/
abbrev State.answerIsMrpp (s : State) : Prop :=
  ∀ _a ∈ s.engine.answer,
    s.drawing ∧ s.engine.request = none ∧ 1 ≤ s.engine.drawn ∧ s.engine.drawn ≤ mrRounds

/-- A command that has neither a request nor an answer has drawn nothing yet. -/
abbrev State.freshHasDrawnNothing (s : State) : Prop :=
  s.engine.request = none → s.engine.answer = none → s.engine.drawn = 0

/-- `WCNT` is 0 to 20 (R50). -/
abbrev State.wcntInRange (s : State) : Prop := s.status.wcnt.toNat ≤ mrRounds

/-- While the reset input is asserted, every piece of the block's state has its reset value
(70_reset_and_hazards.md R240). -/
abbrev State.heldInReset (s : State) : Prop := s.resetLine = true → s.blockAtReset

/-- "A zero coefficient always has sign bit 0" (R36). -/
abbrev State.zeroHasNoSign (s : State) : Prop :=
  (s.status.usign = true → s.big.r1 ≠ 0) ∧ (s.status.vsign = true → s.big.r2 ≠ 0)

/-- The invariant of the machine. `zeroHasNoSign`, which rests on the coefficient bound of 41_xgcd.md
R155, is stated beside it. -/
structure State.Inv (s : State) : Prop where
  params : s.params.wf = true
  regs : s.big.wf s.params
  err : s.errMatchesCode
  busyErr : s.busyWithoutError
  idle : s.idleAtRest
  request : s.requestIsMrpp
  answer : s.answerIsMrpp
  none_drawn : s.freshHasDrawnNothing
  wcnt : s.wcntInRange
  held : s.heldInReset

/-- A safe step: the machine goes on, to a state that meets the invariant. -/
def State.stepsSafely (s : State) : Prop := ∃ s', step s = .next s' ∧ s'.Inv

end Sys2Proof.Machine
end

