-- ==== Sys2Proof/Certificates/Slice0/Obligations.lean ====
section
/-! DEFINITION. The statements for the provers, one definition of a proposition each. They come from the
numbered rules of spec/. `Host.Core.run` counts steps; a script says which agent moves next (log 2). -/

namespace Sys2Proof.Statements

open Sys2Proof.Machine

/-- What every successful completion leaves beside its results `g` and `st` (10_state.md R61). -/
def committed (s : State) (g : BigRegs) (st : Status) : State :=
  { s with
    big := g, status := st,
    engine := { phase := .idle, request := none, answer := none, drawn := 0 },
    intStatus := { doneP := true, ovr := s.intStatus.ovr } }

/-- What an error completion leaves (60_exceptions.md R212). -/
def errored (c : ErrCode) (s : State) : State :=
  { s with
    status := { s.status with err := true, errcode := c },
    engine := { phase := .idle, request := none, answer := none, drawn := 0 },
    intStatus := { doneP := true, ovr := s.intStatus.ovr } }

/-- A command has just been accepted: nothing drawn yet (10_state.md R58). -/
def freshlyAccepted (s : State) : Prop :=
  s.engine = { phase := .busy, request := none, answer := none, drawn := 0 }

/-- The engine's first turn, then an answer and an engine's turn for each element of `answers`. -/
def drawScript (answers : List Nat) : List Event :=
  .engine :: answers.flatMap fun a => [.answer a, .engine]

/-- The values the host sees as results (10_state.md R62) are those of `s`. -/
def sameResults (s t : State) : Prop :=
  t.big.r0 = s.big.r0 ∧ t.big.r1 = s.big.r1 ∧ t.big.r2 = s.big.r2 ∧
  t.status.comp = s.status.comp ∧ t.status.ncop = s.status.ncop ∧
  t.status.usign = s.status.usign ∧ t.status.vsign = s.status.vsign ∧
  t.status.wcnt = s.status.wcnt

/-- A, B and N are those of `s`. -/
def sameOperands (s t : State) : Prop :=
  t.big.a = s.big.a ∧ t.big.b = s.big.b ∧ t.big.n = s.big.n

/-- The host's 32-bit read or write at device offset `off`. -/
def readAt (s : State) (off : Nat) : BusTxn := { op := .read, bytes := 4, addr := s.params.base + off }

/-- The host's 32-bit write of `v` at device offset `off`. -/
def writeAt (s : State) (off : Nat) (v : Word) : BusTxn :=
  { op := .write v, bytes := 4, addr := s.params.base + off }

/-- The host is about to execute the lines `code`, which stand in its program after `pre`. -/
def hostAt (s : State) (pre code post : List HostStmt) : Prop :=
  s.host.prog = pre ++ code ++ post ∧ s.host.pos = pre.length ∧ s.host.halted = false

/-- The loop state of `MODEXP_core` after `k` passes. -/
def modexpAfter (g a n k : Nat) : ModexpVars := (modexpPass n)^[k] (modexpStart g a n)

/-- The loop state of `XGCD_core` after `k` passes. -/
def xgcdAfter (a b k : Nat) : XgcdVars := xgcdPass^[k] (xgcdStart a b)

/-- Of the result state of 10_state.md R35, `t` differs from `s` only in the row of command `i`. -/
def changesOnlyRowOf (i : Instr) (s t : State) : Prop :=
  (t.big.r0 ≠ s.big.r0 → i = .modexp ∨ i = .xgcd ∨ i = .modinv) ∧
  (t.big.r1 ≠ s.big.r1 ∨ t.big.r2 ≠ s.big.r2 → i = .xgcd) ∧
  (t.status.usign ≠ s.status.usign ∨ t.status.vsign ≠ s.status.vsign → i = .xgcd) ∧
  (t.status.ncop ≠ s.status.ncop → i = .xgcd ∨ i = .modinv) ∧
  (t.status.comp ≠ s.status.comp → i = .mrw ∨ i = .mrpp) ∧
  (t.status.wcnt ≠ s.status.wcnt → i = .mrpp)

/-- `u` gives command `i` the operands that `s` gives it (10_state.md R34): the parameters, the registers of
its row and, for MRPP, the answers it has drawn. -/
def sameInputs (i : Instr) (s u : State) : Prop :=
  u.params = s.params ∧
  match i with
  | .modexp => u.big.a = s.big.a ∧ u.big.b = s.big.b ∧ u.big.n = s.big.n
  | .xgcd => u.big.a = s.big.a ∧ u.big.b = s.big.b
  | .modinv => u.big.a = s.big.a ∧ u.big.n = s.big.n
  | .mrw => u.big.n = s.big.n ∧ u.big.a = s.big.a
  | .mrpp => u.big.n = s.big.n ∧ u.engine = s.engine

/-- What one engine step of a command does, as data: each result it writes, the error it raises, the engine
state it leaves, and whether the command completes. `none` is "not written". -/
structure Effect where
  r0 : Option Nat
  r1 : Option Nat
  r2 : Option Nat
  comp : Option Bool
  ncop : Option Bool
  usign : Option Bool
  vsign : Option Bool
  wcnt : Option (BitVec 5)
  error : Option ErrCode
  engine : Engine
  completes : Bool
  deriving DecidableEq, Repr

/-- The effect, done to a state: what is not written stays. -/
def Effect.apply (e : Effect) (s : State) : State :=
  { s with
    big :=
      { s.big with
        r0 := e.r0.getD s.big.r0, r1 := e.r1.getD s.big.r1, r2 := e.r2.getD s.big.r2 }
    status :=
      { err := e.error.isSome || s.status.err
        comp := e.comp.getD s.status.comp
        ncop := e.ncop.getD s.status.ncop
        usign := e.usign.getD s.status.usign
        vsign := e.vsign.getD s.status.vsign
        errcode := e.error.getD s.status.errcode
        wcnt := e.wcnt.getD s.status.wcnt }
    engine := e.engine
    intStatus := { s.intStatus with doneP := e.completes || s.intStatus.doneP } }

/-- The next step serves the host's aligned 32-bit write of `v` at device offset `off`, as a bus transaction or
as a `WR` or `WRH` line of the host program (log 2, log 14). -/
def servesWrite (s : State) (off : Nat) (v : Word) : Prop :=
  s.resetLine = false ∧ off < 0x10000 ∧ off % 4 = 0 ∧
  (s.script.head? = some (.bus (writeAt s off v)) ∨
    s.script.head? = some (.busAndEngine (writeAt s off v)) ∨
    (s.script.head? = some .host ∧ s.host.halted = false ∧
      (s.host.prog[s.host.pos]? = some (.wr off v) ∨
        ∃ k, s.host.prog[s.host.pos]? = some (.wrh off k) ∧ scratchOf s k = v)))

end Sys2Proof.Statements

open Sys2Proof Sys2Proof.Machine Sys2Proof.Statements

/-! ### Encoding -/

/-- R112: the whole opcode map. A word selects an operation only when it equals one of the five words. -/
def Obligations.ExactlyFiveWordsAreCommands : Prop :=
  ∀ (w : Word) (i : Instr), decodeCmd w = .ok i ↔
    (w = 0x00000001#32 ∧ i = .modexp) ∨ (w = 0x00000002#32 ∧ i = .xgcd) ∨
    (w = 0x00000003#32 ∧ i = .modinv) ∨ (w = 0x00000004#32 ∧ i = .mrw) ∨
    (w = 0x00000005#32 ∧ i = .mrpp)

/-- R110, R86: a byte string decodes to a command exactly when it begins with the bytes of that command's
word; what follows is left over. The byte form is log 16. -/
def Obligations.DecodeBytesAgreesWithEncode : Prop :=
  ∀ (bytes : List Byte) (i : Instr) (rest : List Byte), i.wf = true →
    (decodeBytes bytes = .ok (i, rest) ↔ bytes = encodeBytes i ++ rest)

/-- R111, R112: words written out bit by bit from the pattern of R111; R115: the mnemonics and the source's
function names; the bytes of a word, the least significant first (log 16). -/
def Obligations.PatternWordsDecode : Prop :=
  decodeCmd 0b00000000000000000000000000000001#32 = .ok .modexp ∧
  decodeCmd 0b00000000000000000000000000000010#32 = .ok .xgcd ∧
  decodeCmd 0b00000000000000000000000000000011#32 = .ok .modinv ∧
  decodeCmd 0b00000000000000000000000000000100#32 = .ok .mrw ∧
  decodeCmd 0b00000000000000000000000000000101#32 = .ok .mrpp ∧
  decodeCmd 0b00000000000000000000000000010001#32 = .error .reservedBits ∧
  decodeCmd 0b00000000000000000000000000000000#32 = .error .illegalOp ∧
  decodeBytes [0x02#8, 0x00#8, 0x00#8, 0x00#8, 0x05#8] = .ok (.xgcd, [0x05#8]) ∧
  encodeBytes .mrw = [0x04#8, 0x00#8, 0x00#8, 0x00#8] ∧
  assemble "MODEXP" = some .modexp ∧ assemble "XGCD" = some .xgcd ∧ assemble "MODINV" = some .modinv ∧
  assemble "MRW" = some .mrw ∧ assemble "MRPP" = some .mrpp ∧
  sourceFunction "mod_pow" = some .modexp ∧ sourceFunction "extended_gcd" = some .xgcd ∧
  sourceFunction "is_probably_prime" = some .mrpp

/-! ### The step, reset, and the invariant -/

/-- R60: while BUSY with no witness request outstanding, the engine's turn evaluates the command whose
word is in CMD. The turn comes from the schedule of log 2. -/
def Obligations.EngineTurnRunsDecodedCommand : Prop :=
  ∀ (s : State) (i : Instr), decodeCmd s.cmd = .ok i → i.wf = true → s.engine.phase = .busy →
    s.engine.request = none →
    (s.script = [] → step s = exec i s) ∧
    (∀ rest, s.script = .engine :: rest → step s = exec i { s with script := rest })

/-- R91 and log 2: a scheduled bus transaction is served alone and completely in one step; a witness
answer, a host line, the reset events and the engine's turn likewise, and the engine has the turn when
nothing is scheduled. A transaction of any kind outside the 64 KiB at BASE (R80) changes nothing of the
block; that it is no transaction of the block, and its response, are log 10. -/
def Obligations.StepPerformsOneEvent : Prop :=
  ∀ (s : State) (rest : List Event),
    (∀ t, s.script = .bus t :: rest → step s = .next (serve t { s with script := rest })) ∧
    (s.script = .host :: rest → step s = .next (hostStep { s with script := rest })) ∧
    (∀ v, s.script = .answer v :: rest → step s = .next (deliver v { s with script := rest })) ∧
    (s.script = .assertReset :: rest → step s = .next (assertReset { s with script := rest })) ∧
    (s.script = .releaseReset :: rest → step s = .next (releaseReset { s with script := rest })) ∧
    (s.script = .engine :: rest → step s = engineStep { s with script := rest }) ∧
    (s.script = [] → step s = engineStep s) ∧
    (∀ t, s.script = .bus t :: rest → s.resetLine = false →
      t.addr < s.params.base ∨ s.params.base + 0x10000 ≤ t.addr →
      step s = .next { s with script := rest, response := .elsewhere })

/-- R56: the reset table, for every value of the parameters, read back through the register map, every limb
included; a hardware reset and a soft reset apply it. -/
def Obligations.ResetMatchesTable : Prop :=
  ∀ p : Params, p.wf = true →
    let s := State.atReset p
    s.big = { a := 0, b := 0, n := 0, r0 := 0, r1 := 0, r2 := 0 } ∧
    memRead s 0x000 = 0x52530100#32 ∧ (memRead s 0x004).toNat = 0x00140000 + p.limbs ∧
    memRead s 0x008 = 0#32 ∧ memRead s 0x00C = 0#32 ∧ memRead s 0x010 = 0#32 ∧
    memRead s 0x014 = 0#32 ∧
    s.engine = { phase := .idle, request := none, answer := none, drawn := 0 } ∧ irq s = false ∧
    (∀ r i, i < p.limbs → memRead s (windowBase r + 4 * i) = 0#32) ∧
    (∀ u : State, (assertReset u).blockAtReset) ∧
    (∀ (u : State) (v : Word), v.getLsbD 1 = true → (memWrite 0x008 v u).blockAtReset)

/-- R56 and log 1: the state after reset meets the invariant, for every well-formed value of the
parameters and for the one `State.reset` is written for. -/
def Obligations.ResetMeetsInvariant : Prop :=
  (∀ p : Params, p.wf = true → (State.atReset p).Inv ∧ (State.atReset p).zeroHasNoSign) ∧
  State.reset.Inv ∧ State.reset.zeroHasNoSign

/-- The invariant of Safety.lean is kept by every step: registers below `2^W` (R33), ERR and ERRCODE
agree (R46), a witness request only inside MRPP on an odd candidate of at least 5 with a round left
(R97), WCNT 0 to 20 (R50), idle means at rest (R54), the reset input holds the block (R240). -/
def Obligations.StepKeepsInvariant : Prop :=
  ∀ s s' : State, s.Inv → step s = .next s' → s'.Inv

/-- R36, with R155: in every state that steps reach, a zero coefficient has sign bit 0. -/
def Obligations.StepKeepsZeroUnsigned : Prop :=
  ∀ s s' : State, s.Inv → s.zeroHasNoSign → step s = .next s' → s'.zeroHasNoSign

/-- No step ends in a fault or a refusal, and the parameters are constants (R10, R42). That nothing stops the
machine is log 17, the model's reading: a command error is a completion (R212), a bus error a response (R84),
an unanswered request leaves the engine where it is (R229), and what 93_implementation_defined.md treats as
`fault` is one of these. -/
def Obligations.StepAlwaysGoesOn : Prop :=
  ∀ s : State, ∃ s', step s = .next s' ∧ s'.params = s.params

/-! ### The life of a command -/

/-- R58, R59: a CMD write while idle is accepted, by one bus write, with everything else unchanged; while
BUSY it is dropped and only OVR shows it. R52: in every state a read of CMD gives the stored word, which after
an acceptance is the accepted one, illegal words included. -/
def Obligations.CmdWriteAcceptsOrOverruns : Prop :=
  (∀ s : State, memRead s 0x014 = s.cmd) ∧
  ∀ (s : State) (w : Word), s.resetLine = false →
    (s.engine.phase = .idle →
      serve (writeAt s 0x014 w) s =
        { s with
          cmd := w
          status := { s.status with err := false, errcode := .none }
          engine := { phase := .busy, request := none, answer := none, drawn := 0 }
          response := .written }) ∧
    (s.engine.phase = .busy →
      serve (writeAt s 0x014 w) s =
        { s with intStatus := { s.intStatus with ovr := true }, response := .written })

/-- R114: a word that is none of the five is accepted like any other, reads nothing, draws nothing, writes
nothing, and completes with ILLEGAL; one of the five dispatches to its command. -/
def Obligations.IllegalWordCompletesWithIllegal : Prop :=
  (∀ (s : State) (i : Instr), s.cmd = encode i → s.engine.phase = .busy → s.engine.request = none →
    engineStep s = exec i s) ∧
  ∀ (s : State) (w : Word), (w.toNat = 0 ∨ 5 < w.toNat) →
    (s.engine.phase = .idle → s.resetLine = false →
      (serve (writeAt s 0x014 w) s).cmd = w ∧
      (serve (writeAt s 0x014 w) s).engine.phase = .busy) ∧
    (s.cmd = w → s.engine.phase = .busy → s.engine.request = none →
      engineStep s = .next (errored .illegal s))

/-- R62: while BUSY reads 1 after a step, every result register and result flag still has the value it
had before the step. -/
def Obligations.ResultsHoldWhileBusy : Prop :=
  ∀ s s' : State, step s = .next s' → s'.engine.phase = .busy → sameResults s s'

/-- R37, with R47 to R50 and R55: R0, R1, R2, COMP, NCOP, USIGN, VSIGN and WCNT change only at reset and at a
commit (BUSY falls, DONE_P is set, no error is recorded) of a command whose row has them, NCOP also at the
NONCOPRIME completion of MODINV. A host write to the windows of R0, R1 and R2 is ignored without an error. -/
def Obligations.ResultRegistersChangeOnlyAtCommit : Prop :=
  (∀ s s' : State, step s = .next s' →
    sameResults s s' ∨ s'.blockAtReset ∨
    (s.engine.phase = .busy ∧ s'.engine.phase = .idle ∧ s'.intStatus.doneP = true ∧
      ∃ i, s.cmd = encode i ∧ changesOnlyRowOf i s s' ∧
        ((s'.status.err = s.status.err ∧ s'.status.errcode = s.status.errcode) ∨
          (i = .modinv ∧ s'.status.err = true ∧ s'.status.errcode = .nonCoprime ∧
            s'.status.ncop = true ∧ s'.big = s.big)))) ∧
  (∀ (s : State) (off : Nat) (v : Word), 0x4000 ≤ off → off < 0x7000 → off % 4 = 0 →
    s.resetLine = false → serve (writeAt s off v) s = { s with response := .written })

/-- R38, R87: A, B and N change only by a host write to one of that register's own limbs while idle, and at
reset; no command writes them; a
write to one of their limbs while BUSY is dropped and sets OVR, and at a limb index of R83 it is ignored
without OVR. So from acceptance to completion they keep their values. -/
def Obligations.OperandsStableWhileBusy : Prop :=
  (∀ s s' : State, step s = .next s' →
    s'.blockAtReset ∨
    ∀ r : BigReg, r = .a ∨ r = .b ∨ r = .n →
      getBig r s' = getBig r s ∨
      (s.engine.phase = .idle ∧
        ∃ i v, i < s.params.limbs ∧ servesWrite s (windowBase r + 4 * i) v)) ∧
  (∀ (i : Instr) (s t : State), exec i s = .next t → sameOperands s t) ∧
  (∀ (s : State) (r : BigReg) (i : Nat) (v : Word), s.params.wf = true → s.engine.phase = .busy →
    s.resetLine = false → hostWritable r = true →
    (i < s.params.limbs →
      serve (writeAt s (windowBase r + 4 * i) v) s =
        { s with intStatus := { s.intStatus with ovr := true }, response := .written }) ∧
    (s.params.limbs ≤ i → i ≤ 1023 →
      serve (writeAt s (windowBase r + 4 * i) v) s = { s with response := .written }))

/-- R35: what each command may write, in a commit or an error, and the frame of every command: the
other registers, flags and reads of the register map are unchanged. A command that ends sets BUSY to 0 and
DONE_P to 1, and NONCOPRIME comes from MODINV, with NCOP. -/
def Obligations.CommandsWriteOnlyTheirRow : Prop :=
  ∀ (i : Instr) (s t : State), exec i s = .next t →
    (t.params = s.params ∧ sameOperands s t ∧ t.ctrlIe = s.ctrlIe ∧ t.cmd = s.cmd ∧
      t.intStatus.ovr = s.intStatus.ovr ∧ t.resetLine = s.resetLine ∧ t.response = s.response ∧
      t.fresh = s.fresh ∧ t.script = s.script ∧ t.host = s.host) ∧
    changesOnlyRowOf i s t ∧
    (s.status.err = false → t.status.err = true →
      t.big = s.big ∧ t.status.comp = s.status.comp ∧ t.status.wcnt = s.status.wcnt ∧
      t.status.usign = s.status.usign ∧ t.status.vsign = s.status.vsign ∧
      (t.status.errcode = .nonCoprime → i = .modinv ∧ t.status.ncop = true) ∧
      (t.status.errcode ≠ .nonCoprime → t.status.ncop = s.status.ncop)) ∧
    (s.engine.phase = .busy → t.engine.phase = .idle → t.intStatus.doneP = true) ∧
    (t.engine.phase = .busy → t.big = s.big ∧ t.status = s.status ∧ t.intStatus = s.intStatus) ∧
    (∀ off, off ≠ 0x00C → off ≠ 0x010 → ¬ (0x4000 ≤ off ∧ off < 0x7000) →
      memRead t off = memRead s off)

/-- R34, R55: no command reads a register outside its row or a flag. What an engine step of a command does is
one effect for all states that agree on the parameters and the operands of its row (for MRPP also on the
answers it has drawn), whatever the other big registers, R0, R1 and R2, STATUS, CTRL, INT_STATUS and CMD
hold. -/
def Obligations.CommandsReadOnlyTheirOperands : Prop :=
  ∀ (i : Instr) (s : State), ∃ e : Effect, ∀ u : State, sameInputs i s u → exec i u = .next (e.apply u)

/-! ### MODEXP -/

/-- R131: the value of the kernel is `g^a mod n`, its start and its loop body are the rule's, and the loop
runs once per bit of `a`: `floor(log2 a) + 1` passes for `a > 0`, none for `a = 0`. -/
def Obligations.ModexpCoreIsPowerModN : Prop :=
  ∀ g a n : Nat, 0 < n →
    modexpCore g a n = g ^ a % n ∧
    modexpAfter g a n 0 = { r := 1 % n, b := g % n, e := a } ∧
    (∀ v, modexpPass n v =
      { r := if v.e % 2 = 1 then v.r * v.b % n else v.r, b := v.b * v.b % n, e := v.e / 2 }) ∧
    (a = 0 → (modexpAfter g a n 0).e = 0) ∧
    (0 < a → ∀ k, (modexpAfter g a n k).e = 0 ↔ Nat.log2 a + 1 ≤ k) ∧
    (∀ k, (modexpAfter g a n k).e = 0 → (modexpAfter g a n k).r = g ^ a % n)

/-- R132: the accumulator starts at `1 mod n`: for `a = 0` the result is `1 mod n`, for `n = 1` it is 0
whatever `g` and `a` are, and for `n >= 2` a start at the literal 1 gives the same. -/
def Obligations.ModexpStartsAtOneModN : Prop :=
  ∀ g a n : Nat, 0 < n →
    modexpCore g 0 n = 1 % n ∧ modexpCore g a 1 = 0 ∧
    (2 ≤ n → (modexpLoop n a { r := 1, b := g % n, e := a }).r = modexpCore g a n)

/-- R130: the command MODEXP, word 1. With `n = 0` the DIVZERO error; otherwise `R0 <- g^a mod n` and
nothing else but the completion. The premise says the registers are W bits wide (R33). -/
def Obligations.ModexpWritesPowerModN : Prop :=
  decodeCmd 0x00000001#32 = .ok .modexp ∧
  ∀ s : State, s.big.wf s.params →
    (s.big.n = 0 → exec .modexp s = .next (errored .divZero s)) ∧
    (s.big.n ≠ 0 → exec .modexp s =
      .next (committed s { s.big with r0 := s.big.a ^ s.big.b % s.big.n } s.status))

/-- R133: the corner cases of MODEXP. -/
def Obligations.ModexpCornerCases : Prop :=
  ∀ s : State, s.big.wf s.params →
    (s.big.n = 0 → exec .modexp s = .next (errored .divZero s)) ∧
    (s.big.n ≠ 0 → ∃ t, exec .modexp s = .next t ∧
      t.big.a = s.big.a ∧ t.big.b = s.big.b ∧ t.big.n = s.big.n ∧
      (s.big.b = 0 → t.big.r0 = 1 % s.big.n) ∧
      (s.big.b = 1 → t.big.r0 = s.big.a % s.big.n) ∧
      t.big.r0 = (s.big.a % s.big.n) ^ s.big.b % s.big.n ∧
      (s.big.a = 0 → 0 < s.big.b → t.big.r0 = 0) ∧
      (s.big.a % s.big.n = 0 → 0 < s.big.b → t.big.r0 = 0) ∧
      (s.big.n = s.params.bound - 1 → s.big.a = s.big.n → s.big.b = s.big.n →
        t.big.r0 = 0) ∧
      ∀ k,
        let v := modexpAfter s.big.a s.big.b s.big.n k
        v.r * v.b ≤ (s.big.n - 1) ^ 2 ∧ v.b * v.b ≤ (s.big.n - 1) ^ 2 ∧
        (s.big.n - 1) ^ 2 < 2 ^ (2 * s.params.width))

/-- 95_test_vectors.md T7, R134: RSA decryption undoes encryption. Two exponentiations with exponents
`e*d = 1 mod lcm(p-1, q-1)` give the plaintext back. -/
def Obligations.RsaRoundTrip : Prop :=
  ∀ p q e d m : Nat, p.Prime → q.Prime → p ≠ q →
    e * d % Nat.lcm (p - 1) (q - 1) = 1 % Nat.lcm (p - 1) (q - 1) → m < p * q → 0 < e * d →
    modexpCore (modexpCore m e (p * q)) d (p * q) = m

/-! ### XGCD and MODINV -/

/-- R150: the loop of `XGCD_core`, its body, its end and its last division. -/
def Obligations.XgcdCoreIteratesToZero : Prop :=
  ∀ a b : Nat, 0 < b →
    xgcdAfter a b 0 = { u := 1, g := a, x := 0, y := b } ∧
    (∀ k,
      let w := xgcdAfter a b k
      xgcdAfter a b (k + 1) =
        { u := w.x, g := w.y, x := w.u - (w.g / w.y : Nat) * w.x, y := w.g % w.y }) ∧
    ∃ k,
      let w := xgcdAfter a b k
      w.y = 0 ∧ (∀ j, j < k → (xgcdAfter a b j).y ≠ 0) ∧
      xgcdCore a b = { g := w.g, u := w.u, v := ((w.g : Int) - a * w.u) / b }

/-- R152, R153: the Bézout identity, the gcd, the exact division at every iteration, and the falling `y`
that ends the loop. -/
def Obligations.XgcdCoreIsBezout : Prop :=
  ∀ a b : Nat, 0 < b →
    (xgcdCore a b).g = Nat.gcd a b ∧
    (a : Int) * (xgcdCore a b).u + b * (xgcdCore a b).v = (xgcdCore a b).g ∧
    (b : Int) ∣ (xgcdCore a b).g - a * (xgcdCore a b).u ∧
    (∀ k, (b : Int) ∣ (xgcdAfter a b k).g - a * (xgcdAfter a b k).u) ∧
    (∀ k, (xgcdAfter a b k).y ≠ 0 → (xgcdAfter a b (k + 1)).y < (xgcdAfter a b k).y)

/-- R155: the coefficient bound, so that no magnitude is ever truncated. The bound is the spec's general
knowledge G3. -/
def Obligations.XgcdCoefficientsFit : Prop :=
  ∀ (p : Params) (a b : Nat), p.wf = true → a < p.bound → b < p.bound → 0 < b →
    (xgcdCore a b).u.natAbs ≤ max 1 (b / (xgcdCore a b).g) ∧
    (xgcdCore a b).v.natAbs ≤ max 1 (a / (xgcdCore a b).g) ∧
    (xgcdCore a b).u.natAbs < p.bound ∧ (xgcdCore a b).v.natAbs < p.bound

/-- R151: the command XGCD, word 2. With `b = 0` the DIVZERO error; otherwise the gcd, the magnitudes,
the signs and NCOP, and nothing else but the completion. -/
def Obligations.XgcdWritesGcdAndCoefficients : Prop :=
  decodeCmd 0x00000002#32 = .ok .xgcd ∧
  ∀ s : State, s.params.wf = true → s.big.wf s.params →
    (s.big.b = 0 → exec .xgcd s = .next (errored .divZero s)) ∧
    (s.big.b ≠ 0 →
      let c := xgcdCore s.big.a s.big.b
      exec .xgcd s =
        .next (committed s
          { s.big with r0 := Nat.gcd s.big.a s.big.b, r1 := c.u.natAbs, r2 := c.v.natAbs }
          { s.status with
            usign := decide (c.u < 0), vsign := decide (c.v < 0),
            ncop := decide (Nat.gcd s.big.a s.big.b ≠ 1) }))

/-- R36: after XGCD the host reads `u` and `v` back from the magnitudes and the sign bits, they satisfy the
Bézout identity, and a zero coefficient has sign bit 0. -/
def Obligations.SignMagnitudeReadsBack : Prop :=
  ∀ s : State, s.params.wf = true → s.big.wf s.params → s.big.b ≠ 0 →
    ∃ t, exec .xgcd s = .next t ∧
      let u : Int := if t.status.usign = true then -(t.big.r1 : Int) else t.big.r1
      let v : Int := if t.status.vsign = true then -(t.big.r2 : Int) else t.big.r2
      u = (xgcdCore s.big.a s.big.b).u ∧ v = (xgcdCore s.big.a s.big.b).v ∧
      (s.big.a : Int) * u + s.big.b * v = t.big.r0 ∧
      (t.big.r1 = 0 → t.status.usign = false) ∧ (t.big.r2 = 0 → t.status.vsign = false)

/-- R154: the corner cases of XGCD, the swap among them. -/
def Obligations.XgcdCornerCases : Prop :=
  ∀ a b : Nat,
    (0 < b → xgcdCore 0 b = { g := b, u := 0, v := 1 }) ∧
    (0 < a → xgcdCore a a = { g := a, u := 0, v := 1 }) ∧
    (0 < b → ∀ c, 1 ≤ c → xgcdCore (c * b) b = { g := b, u := 0, v := 1 }) ∧
    (0 < a → ∀ c, 2 ≤ c → xgcdCore a (c * a) = { g := a, u := 1, v := 0 }) ∧
    xgcdCore a 1 = { g := 1, u := 0, v := 1 } ∧
    (a < b → xgcdAfter a b 1 = { u := 0, g := b, x := 1, y := a }) ∧
    (0 < a → 0 < b → a ≠ b →
      xgcdCore b a =
        { g := (xgcdCore a b).g, u := (xgcdCore a b).v, v := (xgcdCore a b).u }) ∧
    (∀ s : State, s.big.b = 0 → exec .xgcd s = .next (errored .divZero s)) ∧
    (∀ s : State, s.big.b ≠ 0 → ∃ t, exec .xgcd s = .next t ∧
      ((xgcdCore s.big.a s.big.b).u = 0 → t.status.usign = false) ∧
      ((xgcdCore s.big.a s.big.b).v = 0 → t.status.vsign = false))

/-- R156: the command MODINV, word 3: DIVZERO with nothing written, NONCOPRIME with NCOP written, or the
reduced coefficient in R0. -/
def Obligations.ModinvWritesReducedCoefficient : Prop :=
  decodeCmd 0x00000003#32 = .ok .modinv ∧
  ∀ s : State, s.big.wf s.params →
    (s.big.n = 0 → exec .modinv s = .next (errored .divZero s)) ∧
    (s.big.n ≠ 0 → Nat.gcd s.big.a s.big.n ≠ 1 →
      exec .modinv s =
        .next (errored .nonCoprime { s with status := { s.status with ncop := true } })) ∧
    (s.big.n ≠ 0 → Nat.gcd s.big.a s.big.n = 1 →
      exec .modinv s =
        .next (committed s
          { s.big with r0 := ((xgcdCore s.big.a s.big.n).u % (s.big.n : Int)).toNat }
          { s.status with ncop := false }))

/-- R157: the corner cases of MODINV, and that the committed result is the inverse. -/
def Obligations.ModinvGivesTheInverse : Prop :=
  ∀ s : State, s.big.wf s.params →
    (s.big.n = 0 →
      exec .modinv s = .next (errored .divZero s) ∧ (errored .divZero s).status.ncop = s.status.ncop) ∧
    (s.big.a = 0 → 2 ≤ s.big.n → ∃ t, exec .modinv s = .next t ∧
      t.status.errcode = .nonCoprime ∧ t.status.ncop = true ∧ t.big.r0 = s.big.r0) ∧
    (s.big.n ≠ 0 → Nat.gcd s.big.a s.big.n = 1 → ∃ t, exec .modinv s = .next t ∧
      t.big.r0 < s.big.n ∧ s.big.a * t.big.r0 % s.big.n = 1 % s.big.n ∧
      (s.big.n = 1 → t.big.r0 = 0) ∧
      (t.big.r0 : Int) = (xgcdCore s.big.a s.big.n).u % (s.big.n : Int) ∧
      ∃ t', exec .modinv { s with big := { s.big with a := s.big.a % s.big.n } } = .next t' ∧
        t'.big.r0 = t.big.r0) ∧
    Nat.gcd s.big.a s.big.n = Nat.gcd (s.big.a % s.big.n) s.big.n ∧
    (∀ u : Int, (s.big.a : Int) * u ≡ (s.big.a % s.big.n : Nat) * u [ZMOD s.big.n])

/-! ### Miller-Rabin -/

/-- R182: `DECOMP(m)` is the unique `(k, q)` with `m = 2^k * q` and `q` odd. -/
def Obligations.DecompIsUnique : Prop :=
  ∀ m : Nat, 1 ≤ m →
    m = 2 ^ (decomp m).k * (decomp m).q ∧ (decomp m).q % 2 = 1 ∧
    (m % 2 = 0 → 1 ≤ (decomp m).k) ∧
    ∀ k q : Nat, m = 2 ^ k * q → q % 2 = 1 → k = (decomp m).k ∧ q = (decomp m).q

/-- R181: the per-witness kernel. Even `n` and a proper common factor are composite; otherwise, with
`n - 1 = 2^k * q`, `q` odd, the verdict is "not proven composite" exactly when `a^q` is 1 or one of the `k`
values `a^q, a^(2q), ..., a^(2^(k-1) q)` is `n - 1`, modulo `n`. -/
def Obligations.MrWitnessIsTheStrongTest : Prop :=
  ∀ n a : Nat, n ≠ 1 →
    (n % 2 = 0 → mrWitness n a = true) ∧
    (n % 2 = 1 → 1 < Nat.gcd a n → Nat.gcd a n < n → mrWitness n a = true) ∧
    (n % 2 = 1 → ¬ (1 < Nat.gcd a n ∧ Nat.gcd a n < n) →
      ∀ k q : Nat, n - 1 = 2 ^ k * q → q % 2 = 1 →
        1 ≤ k ∧
        (mrWitness n a = false ↔
          a ^ q % n = 1 ∨ ∃ i, i < k ∧ a ^ (2 ^ i * q) % n = n - 1))

/-- R188, with general knowledge G4 of the spec: a prime has no Miller-Rabin witness. No odd prime is
proven composite by a value that it does not divide; one it divides is composite by R187 (MRW(7, 7)). -/
def Obligations.PrimesHaveNoWitness : Prop :=
  ∀ n a : Nat, n.Prime → n ≠ 2 → ¬ n ∣ a → mrWitness n a = false

/-- R183: the command MRW, word 4: the RANGE error for `n = 1`, otherwise COMP alone. -/
def Obligations.MrwWritesVerdict : Prop :=
  decodeCmd 0x00000004#32 = .ok .mrw ∧
  ∀ s : State,
    (s.big.n = 1 → exec .mrw s = .next (errored .range s)) ∧
    (s.big.n ≠ 1 → exec .mrw s =
      .next (committed s s.big { s.status with comp := mrWitness s.big.n s.big.a }))

/-- R187: the corner cases of MRW, and MRPP's answers out of range. -/
def Obligations.MillerRabinCornerCases : Prop :=
  (∀ s : State, s.big.n % 2 = 0 → ∃ t, exec .mrw s = .next t ∧ t.status.comp = true) ∧
  (∀ s : State, s.big.n = 1 →
    exec .mrw s = .next (errored .range s) ∧ (errored .range s).status.comp = s.status.comp) ∧
  mrWitness 3 2 = false ∧
  (∀ n a : Nat, 3 ≤ n → n % 2 = 1 →
    (a % n = 0 → mrWitness n a = true) ∧ (a % n = 1 → mrWitness n a = false) ∧
    (a % n = n - 1 → mrWitness n a = false) ∧ mrWitness n a = mrWitness n (a % n)) ∧
  (∀ (s : State) (a : Nat), 5 ≤ s.big.n → s.big.n % 2 = 1 → s.engine.answer = some a →
    (a < 2 ∨ s.big.n - 2 < a) →
    exec .mrpp s = .next (errored .rng s) ∧
    (errored .rng s).status.comp = s.status.comp ∧ (errored .rng s).status.wcnt = s.status.wcnt)

/-- R185: MRPP on small and even candidates: a verdict with WCNT 0 and no draw; on odd `n >= 5` it draws
from a range with at least two values. -/
def Obligations.MrppOnSmallAndEvenCandidates : Prop :=
  ∀ s : State,
    (s.big.n = 0 ∨ s.big.n = 1 → exec .mrpp s =
      .next (committed s s.big { s.status with comp := true, wcnt := 0#5 })) ∧
    (s.big.n = 2 ∨ s.big.n = 3 → exec .mrpp s =
      .next (committed s s.big { s.status with comp := false, wcnt := 0#5 })) ∧
    (4 ≤ s.big.n → s.big.n % 2 = 0 → exec .mrpp s =
      .next (committed s s.big { s.status with comp := true, wcnt := 0#5 })) ∧
    (5 ≤ s.big.n → s.big.n % 2 = 1 → freshlyAccepted s →
      exec .mrpp s =
        .next { s with
          engine :=
            { phase := .busy, request := some { lo := 2, hi := s.big.n - 1 }, answer := none,
              drawn := 0 } } ∧
      2 ≤ s.big.n - 1 - 2)

/-- R184: one round of MRPP, once the answer `a` to the request of round `r` has come: the RNG error, the
composite verdict with WCNT `r`, the next request, or after 20 rounds "probably prime". How the rounds
fall into engine steps is log 6. -/
def Obligations.MrppRound : Prop :=
  ∀ (s : State) (a r : Nat), 5 ≤ s.big.n → s.big.n % 2 = 1 → 1 ≤ r → r ≤ 20 →
    s.engine = { phase := .busy, request := none, answer := some a, drawn := r } →
    (a < 2 ∨ s.big.n - 2 < a → exec .mrpp s = .next (errored .rng s)) ∧
    (2 ≤ a → a ≤ s.big.n - 2 → mrWitness s.big.n a = true → exec .mrpp s =
      .next (committed s s.big { s.status with comp := true, wcnt := BitVec.ofNat 5 r })) ∧
    (2 ≤ a → a ≤ s.big.n - 2 → mrWitness s.big.n a = false → r < 20 → exec .mrpp s =
      .next { s with
        engine :=
          { phase := .busy, request := some { lo := 2, hi := s.big.n - 1 }, answer := none,
            drawn := r } }) ∧
    (2 ≤ a → a ≤ s.big.n - 2 → mrWitness s.big.n a = false → r = 20 → exec .mrpp s =
      .next (committed s s.big { s.status with comp := false, wcnt := 20#5 }))

/-- R184, R186: a whole MRPP on an odd candidate of at least 5, with the witness source answering each
request. Witnesses are tested in order; the first composite one ends the command with its round number in
WCNT; 20 passing ones end it with COMP 0 and WCNT 20; the first answer out of range is the RNG error. The
turns are those of log 2 and log 6. -/
def Obligations.MrppTestsWitnessesInOrder : Prop :=
  ∀ (s : State) (passed : List Nat) (rest : List Event),
    s.cmd = 0x00000005#32 → freshlyAccepted s → 5 ≤ s.big.n → s.big.n % 2 = 1 →
    (∀ a ∈ passed, 2 ≤ a ∧ a ≤ s.big.n - 2 ∧ mrWitness s.big.n a = false) →
    (passed.length = 20 → s.script = drawScript passed ++ rest →
      core.run 41 s =
        .next { committed s s.big { s.status with comp := false, wcnt := 20#5 } with script := rest }) ∧
    (∀ a, passed.length < 20 → s.script = drawScript (passed ++ [a]) ++ rest →
      (2 ≤ a → a ≤ s.big.n - 2 → mrWitness s.big.n a = true →
        core.run (2 * passed.length + 3) s =
          .next { committed s s.big
              { s.status with comp := true, wcnt := BitVec.ofNat 5 (passed.length + 1) } with
            script := rest }) ∧
      (a < 2 ∨ s.big.n - 2 < a →
        core.run (2 * passed.length + 3) s = .next { errored .rng s with script := rest }))

/-- R188 and G4: MRPP accepts every prime: whatever 20 witnesses in `[2, n - 2]` the source answers with,
a prime `n >= 5` ends with COMP 0 and WCNT 20. The turns are those of log 2 and log 6. -/
def Obligations.MrppAcceptsEveryPrime : Prop :=
  ∀ (s : State) (answers : List Nat) (rest : List Event),
    s.cmd = 0x00000005#32 → freshlyAccepted s → s.big.n.Prime → 5 ≤ s.big.n →
    answers.length = 20 → (∀ a ∈ answers, 2 ≤ a ∧ a ≤ s.big.n - 2) →
    s.script = drawScript answers ++ rest →
    core.run 41 s =
      .next { committed s s.big { s.status with comp := false, wcnt := 20#5 } with script := rest }

/-- R229: every command completes once its witness requests are answered. Whatever word was accepted and
whatever the source answers, 20 answers suffice; MODEXP, XGCD, MODINV and MRW need none; an unanswered
request leaves the engine where it is until a reset. The turns are those of log 2 and log 6. -/
def Obligations.EveryCommandCompletes : Prop :=
  (∀ (s : State) (answers : List Nat), freshlyAccepted s → answers.length = 20 →
    s.script = drawScript answers →
    ∃ t, core.run 41 s = .next t ∧ t.engine.phase = .idle ∧ t.intStatus.doneP = true) ∧
  (∀ (s : State) (i : Instr), i ≠ .mrpp →
    ∃ t, exec i s = .next t ∧ t.engine.phase = .idle ∧ t.intStatus.doneP = true) ∧
  (∀ (s s' : State) (r : DrawRequest), s.engine.phase = .busy → s.engine.request = some r →
    step s = .next s' → (∀ a rest, s.script ≠ .answer a :: rest) →
    s'.engine = s.engine ∨ s'.blockAtReset)

/-- R97: the witness port. An answer goes to the outstanding request, one at a time, and is counted; with
none outstanding, or to a withdrawn request, it is discarded. -/
def Obligations.AnswersGoToTheOutstandingRequest : Prop :=
  ∀ (s : State) (a : Nat) (rest : List Event),
    (∀ r, s.script = .answer a :: rest → s.engine.request = some r →
      step s = .next { s with
        engine :=
          { phase := s.engine.phase, request := none, answer := some a,
            drawn := s.engine.drawn + 1 }
        script := rest }) ∧
    (s.script = .answer a :: rest → s.engine.request = none →
      step s = .next { s with script := rest }) ∧
    (s.script = .staleAnswer a :: rest → step s = .next { s with script := rest })

/-! ### Bus, registers and limbs -/

/-- R32: a big register is the sum of its limbs, limb 0 the least significant. -/
def Obligations.RegisterIsSumOfLimbs : Prop :=
  ∀ (s : State) (r : BigReg), s.params.wf = true → s.big.wf s.params →
    getBig r s =
      ((List.range s.params.limbs).map fun i =>
        (memRead s (windowBase r + 4 * i)).toNat * 2 ^ (32 * i)).sum

/-- R82, R83: limb reads and writes through the windows, as the register map and as the bus serves them. A
write to a limb of A, B or N while idle gives the value of R82's formula and touches no other register; to
another register or while BUSY it changes no register; offsets of limbs at `L` and above read 0 and ignore
writes, with no error response and no OVR. The windows stand where R81 puts them, each for its own register,
and the host may write A, B and N (R31). -/
def Obligations.LimbWindows : Prop :=
  (windowBase .a = 0x1000 ∧ windowBase .b = 0x2000 ∧ windowBase .n = 0x3000 ∧
    windowBase .r0 = 0x4000 ∧ windowBase .r1 = 0x5000 ∧ windowBase .r2 = 0x6000) ∧
  (∀ s : State,
    getBig .a s = s.big.a ∧ getBig .b s = s.big.b ∧ getBig .n s = s.big.n ∧
    getBig .r0 s = s.big.r0 ∧ getBig .r1 s = s.big.r1 ∧ getBig .r2 s = s.big.r2) ∧
  (∀ r : BigReg, hostWritable r = true ↔ r = .a ∨ r = .b ∨ r = .n) ∧
  ∀ (s : State) (r : BigReg) (i : Nat) (v : Word), s.params.wf = true → s.big.wf s.params →
    (i < s.params.limbs →
      (memRead s (windowBase r + 4 * i)).toNat = getBig r s / 2 ^ (32 * i) % 2 ^ 32) ∧
    (i < s.params.limbs → hostWritable r = true → s.engine.phase = .idle →
      getBig r (memWrite (windowBase r + 4 * i) v s) =
        getBig r s - (memRead s (windowBase r + 4 * i)).toNat * 2 ^ (32 * i)
          + v.toNat * 2 ^ (32 * i) ∧
      (∀ q, q ≠ r → getBig q (memWrite (windowBase r + 4 * i) v s) = getBig q s) ∧
      { memWrite (windowBase r + 4 * i) v s with big := s.big } = s) ∧
    (i < s.params.limbs → hostWritable r = false ∨ s.engine.phase = .busy →
      (memWrite (windowBase r + 4 * i) v s).big = s.big) ∧
    (s.params.limbs ≤ i → i ≤ 1023 →
      memRead s (windowBase r + 4 * i) = 0#32 ∧ memWrite (windowBase r + 4 * i) v s = s ∧
      (s.resetLine = false →
        serve (readAt s (windowBase r + 4 * i)) s = { s with response := .data 0#32 } ∧
        serve (writeAt s (windowBase r + 4 * i) v) s = { s with response := .written }))

/-- R39, R91: a read that follows a write of a limb sees it, and every other word of the register map
reads as before. -/
def Obligations.LimbReadAfterWrite : Prop :=
  ∀ (s : State) (r : BigReg) (i : Nat) (v : Word), s.params.wf = true → s.big.wf s.params →
    i < s.params.limbs → hostWritable r = true → s.engine.phase = .idle →
    memRead (memWrite (windowBase r + 4 * i) v s) (windowBase r + 4 * i) = v ∧
    ∀ off, off % 4 = 0 → off ≠ windowBase r + 4 * i →
      memRead (memWrite (windowBase r + 4 * i) v s) off = memRead s off

/-- R85, R88: reserved offsets read 0 and ignore writes; read-only registers and windows ignore writes,
busy or not; no error response and no flag. -/
def Obligations.ReservedAndReadOnlyIgnoreWrites : Prop :=
  ∀ (s : State) (off : Nat) (v : Word), s.resetLine = false → off % 4 = 0 →
    ((0x0018 ≤ off ∧ off ≤ 0x0FFF) ∨ (0x7000 ≤ off ∧ off ≤ 0xFFFF) →
      serve (readAt s off) s = { s with response := .data 0#32 } ∧
      serve (writeAt s off v) s = { s with response := .written }) ∧
    (off = 0x000 ∨ off = 0x004 ∨ off = 0x00C ∨ (0x4000 ≤ off ∧ off ≤ 0x6FFF) →
      serve (writeAt s off v) s = { s with response := .written })

/-- R84, R213: a 32-bit access at a multiple of 4 is served, and any other access gets a bus error and has
no effect on any state of the block, a command in progress included. The data of a failed read is a free
value (log 8). -/
def Obligations.OnlyAlignedWordsAreServed : Prop :=
  ∀ (s : State) (bytes off : Nat), s.resetLine = false → off < 0x10000 →
    (bytes = 4 → off % 4 = 0 →
      serve { op := .read, bytes := bytes, addr := s.params.base + off } s =
        { s with response := .data (memRead s off) } ∧
      ∀ v, serve { op := .write v, bytes := bytes, addr := s.params.base + off } s =
        { memWrite off v s with response := .written }) ∧
    ((bytes ≠ 4 ∨ off % 4 ≠ 0) →
    (∃ lanes, serve { op := .read, bytes := bytes, addr := s.params.base + off } s =
      { s with response := .readError off lanes, fresh := s.fresh + 1 }) ∧
    (∀ v, serve { op := .write v, bytes := bytes, addr := s.params.base + off } s =
      { s with response := .writeError off }))

/-- R89: no read has a side effect, two reads in a row return the same word, and a write has one only at
CTRL, INT_STATUS, CMD and the limbs of A, B and N. -/
def Obligations.ReadsHaveNoSideEffects : Prop :=
  (∀ (s : State) (t : BusTxn), t.op = .read →
    { serve t s with response := s.response, fresh := s.fresh } = s ∧
    ∀ off, memRead (serve t s) off = memRead s off) ∧
  (∀ (s : State) (off : Nat) (v : Word), off ≠ 0x008 → off ≠ 0x010 → off ≠ 0x014 →
    (∀ r i, hostWritable r = true → i < s.params.limbs → off ≠ windowBase r + 4 * i) →
    off % 4 = 0 → memWrite off v s = s)

/-- R41, R42, R44, R210: the identification words, the fields of STATUS bit by bit, and the error codes as
numbers. -/
def Obligations.StatusWordFields : Prop :=
  ∀ s : State, s.params.wf = true →
    (memRead s 0x000).toNat = 0x5253 * 2 ^ 16 + 0x01 * 2 ^ 8 + 0x00 ∧
    (memRead s 0x004).toNat = 20 * 2 ^ 16 + s.params.limbs ∧
    (let w := memRead s 0x00C
     w.getLsbD 0 = decide (s.engine.phase = .busy) ∧ w.getLsbD 1 = s.status.err ∧
     w.getLsbD 2 = s.status.comp ∧ w.getLsbD 3 = s.status.ncop ∧ w.getLsbD 4 = s.status.usign ∧
     w.getLsbD 5 = s.status.vsign ∧ w.extractLsb' 6 2 = 0#2 ∧
     w.extractLsb' 8 4 = errCodeBits s.status.errcode ∧ w.extractLsb' 12 4 = 0#4 ∧
     w.extractLsb' 16 5 = s.status.wcnt ∧ w.extractLsb' 21 11 = 0#11 ∧
     (s.status.errcode = .none → w.extractLsb' 8 4 = 0x0#4) ∧
     (s.status.errcode = .illegal → w.extractLsb' 8 4 = 0x1#4) ∧
     (s.status.errcode = .divZero → w.extractLsb' 8 4 = 0x2#4) ∧
     (s.status.errcode = .nonCoprime → w.extractLsb' 8 4 = 0x3#4) ∧
     (s.status.errcode = .range → w.extractLsb' 8 4 = 0x4#4) ∧
     (s.status.errcode = .rng → w.extractLsb' 8 4 = 0x5#4))

/-- R43: CTRL reads IE in bit 0 and 0 elsewhere; a write with SRST = 1 is a soft reset that ignores the
written IE; a write with SRST = 0 sets IE, busy or idle, without OVR. -/
def Obligations.CtrlWrites : Prop :=
  ∀ (s : State) (v : Word),
    (memRead s 0x008).toNat = (if s.ctrlIe = true then 1 else 0) ∧
    (v.getLsbD 1 = true →
      (memWrite 0x008 v s).blockAtReset ∧ (memWrite 0x008 v s).params = s.params) ∧
    (v.getLsbD 1 = false → memWrite 0x008 v s = { s with ctrlIe := v.getLsbD 0 })

/-- R51, R218: INT_STATUS is write-1-to-clear, bit by bit; its layout; and when a completion, of any kind, and
a host write to INT_STATUS fall in the same step (log 13), DONE_P is 1 afterwards. MODEXP, XGCD, MODINV and MRW
do complete in such a step. -/
def Obligations.IntStatusWriteOneToClear : Prop :=
  (∀ (s : State) (v : Word),
    (memRead s 0x010).getLsbD 0 = s.intStatus.doneP ∧ (memRead s 0x010).getLsbD 1 = s.intStatus.ovr ∧
    (memRead s 0x010).extractLsb' 2 30 = 0#30 ∧
    memWrite 0x010 v s =
      { s with
        intStatus :=
          { doneP := if v.getLsbD 0 = true then false else s.intStatus.doneP
            ovr := if v.getLsbD 1 = true then false else s.intStatus.ovr } }) ∧
  (∀ (s : State) (v : Word) (rest : List Event) (i : Instr), decodeCmd s.cmd = .ok i → i ≠ .mrpp →
    s.engine.phase = .busy → s.engine.request = none → s.resetLine = false → v.getLsbD 0 = true →
    s.script = .busAndEngine (writeAt s 0x010 v) :: rest →
    ∃ t, step s = .next t ∧ t.engine.phase = .idle ∧ t.intStatus.doneP = true) ∧
  (∀ (s s' : State) (v : Word) (rest : List Event), s.engine.phase = .busy →
    s.script = .busAndEngine (writeAt s 0x010 v) :: rest → step s = .next s' →
    s'.engine.phase = .idle → s'.intStatus.doneP = true)

/-- R43, R46, R51, R52, R214, R218, R55: what changes a flag or a control register, over every step that does
not leave the block at its reset values. DONE_P rises only at a completion; OVR only when a write to CMD or to a
limb of A, B or N is dropped while BUSY; once 1, each falls only by a host write of 1 to its bit of INT_STATUS.
IE changes only by a CTRL write with SRST = 0, CMD only by the acceptance of the word written; ERR and ERRCODE
keep their value but for an error completion and for that acceptance, which sets them to 0. -/
def Obligations.FlagsHoldUntilTheirEvents : Prop :=
  ∀ s s' : State, step s = .next s' → s'.blockAtReset ∨
    ((s.intStatus.doneP = true → s'.intStatus.doneP = false →
        ∃ v : Word, v.getLsbD 0 = true ∧ servesWrite s 0x010 v) ∧
      (s.intStatus.doneP = false → s'.intStatus.doneP = true →
        s.engine.phase = .busy ∧ s'.engine.phase = .idle) ∧
      (s.intStatus.ovr = true → s'.intStatus.ovr = false →
        ∃ v : Word, v.getLsbD 1 = true ∧ servesWrite s 0x010 v) ∧
      (s.intStatus.ovr = false → s'.intStatus.ovr = true →
        s.engine.phase = .busy ∧ ∃ off v, servesWrite s off v ∧
          (off = 0x014 ∨ ∃ r i, (r = .a ∨ r = .b ∨ r = .n) ∧ i < s.params.limbs ∧
            off = windowBase r + 4 * i)) ∧
      (s'.ctrlIe = s.ctrlIe ∨
        ∃ v : Word, v.getLsbD 1 = false ∧ servesWrite s 0x008 v ∧ s'.ctrlIe = v.getLsbD 0) ∧
      (s'.cmd = s.cmd ∨
        (s.engine.phase = .idle ∧ s'.engine.phase = .busy ∧ servesWrite s 0x014 s'.cmd)) ∧
      ((s'.status.err = s.status.err ∧ s'.status.errcode = s.status.errcode) ∨
        (s.engine.phase = .busy ∧ s'.engine.phase = .idle ∧ s'.intStatus.doneP = true ∧
          s'.status.err = true ∧ s'.status.errcode ≠ .none) ∨
        (s.engine.phase = .idle ∧ s'.engine.phase = .busy ∧ s'.status.err = false ∧
          s'.status.errcode = .none ∧ servesWrite s 0x014 s'.cmd)))

/-- R217, R219: `irq = CTRL.IE AND INT_STATUS.DONE_P`; setting IE with DONE_P = 1 raises it at once, clearing
DONE_P drops it, and nothing else raises it but a completion: not OVR, a bus error, a witness request or a
reset. -/
def Obligations.IrqIsEnabledCompletion : Prop :=
  (∀ s : State,
    (irq s = true ↔ s.ctrlIe = true ∧ s.intStatus.doneP = true) ∧
    (∀ v : Word, v.getLsbD 1 = false → v.getLsbD 0 = true → s.intStatus.doneP = true →
      irq (memWrite 0x008 v s) = true) ∧
    (∀ v : Word, v.getLsbD 0 = true → irq (memWrite 0x010 v s) = false)) ∧
  (∀ s s' : State, step s = .next s' → irq s = false → irq s' = true →
    (s.engine.phase = .busy ∧ s'.engine.phase = .idle ∧ s'.intStatus.doneP = true) ∨
    (s.ctrlIe = false ∧ s'.ctrlIe = true ∧ s.intStatus.doneP = true))

/-! ### Reset -/

/-- R241, R242, R216: a soft reset gives the reset state of the block whatever was going on, leaves the
other agents alone, and withdraws an outstanding request: an answer delivered then is discarded. A soft
reset in the same step as a completion wins. -/
def Obligations.SoftResetAbortsCommand : Prop :=
  ∀ (s : State) (v : Word) (a : Nat) (rest : List Event), v.getLsbD 1 = true → s.resetLine = false →
    let t : State :=
      { State.atReset s.params with
        response := .written, fresh := s.fresh, script := s.script, host := s.host }
    serve (writeAt s 0x008 v) s = t ∧ deliver a t = t ∧ irq t = false ∧
    (s.script = .busAndEngine (writeAt s 0x008 v) :: rest → step s = .next { t with script := rest })

/-- R240: while the reset input is asserted and when it is released, every piece of the block's state has
its reset value, and bus transactions are not served. -/
def Obligations.HardwareResetHoldsTheBlock : Prop :=
  ∀ (s : State) (rest : List Event),
    (s.script = .assertReset :: rest →
      step s = .next { State.atReset s.params with
        resetLine := true, response := s.response, fresh := s.fresh, script := rest,
        host := s.host }) ∧
    (s.script = .releaseReset :: rest → s.resetLine = true →
      step s = .next { State.atReset s.params with
        response := s.response, fresh := s.fresh, script := rest, host := s.host }) ∧
    (∀ t, s.resetLine = true → serve t s = { s with response := .notServed }) ∧
    (∀ s', s.resetLine = true → s.blockAtReset → step s = .next s' → s'.blockAtReset)

/-- R228, R242: when idle and at rest the block does nothing and keeps all its state: an engine's turn, an
answer to a request it has not, and a late answer change nothing. -/
def Obligations.IdleBlockKeepsItsState : Prop :=
  ∀ s : State, s.engine = { phase := .idle, request := none, answer := none, drawn := 0 } →
    (s.script = [] → step s = .next s) ∧
    (∀ (e : Event) (rest : List Event), s.script = e :: rest →
      (e = .engine ∨ ∃ a, e = .answer a ∨ e = .staleAnswer a) →
      step s = .next { s with script := rest })

/-! ### The host notation -/

/-- R116: the host-internal statements, each with all it changes: arithmetic modulo `2^32` and bitwise AND into
one scratch variable, branches to the line of a label, `HALT`, after which the host's lines do nothing. None
touches the block. The host's turn runs the line it stands at, and nothing past its program. Labels as lines,
the first line that declares a label, and a branch to a label that no line declares are log 14. -/
def Obligations.HostInternalStatements : Prop :=
  (∀ (s : State) (k j : Scratch) (imm : Word),
    scratchOf (hostStmt (.addi k j imm) s) k = scratchOf s j + imm ∧
    scratchOf (hostStmt (.andi k j imm) s) k = scratchOf s j &&& imm ∧
    ∀ st ∈ ([.addi k j imm, .andi k j imm] : List HostStmt),
      (∀ m, m ≠ k → scratchOf (hostStmt st s) m = scratchOf s m) ∧
      { hostStmt st s with
        host := { (hostStmt st s).host with scratch := s.host.scratch, pos := s.host.pos } } = s ∧
      (hostStmt st s).host.pos = s.host.pos + 1) ∧
  (∀ (s : State) (k : Scratch) (l pos : Nat),
    (findLabel s.host.prog l = some pos ∨ findLabel s.host.prog l = none ∧ pos = s.host.prog.length) →
    (scratchOf s k = 0 →
      hostStmt (.bz k l) s = { s with host := { s.host with pos := pos } }) ∧
    (scratchOf s k ≠ 0 →
      hostStmt (.bnz k l) s = { s with host := { s.host with pos := pos } }) ∧
    hostStmt (.jmp l) s = { s with host := { s.host with pos := pos } }) ∧
  (∀ (s : State) (k : Scratch) (l : Nat),
    (scratchOf s k ≠ 0 → hostStmt (.bz k l) s = advance s) ∧
    (scratchOf s k = 0 → hostStmt (.bnz k l) s = advance s) ∧
    hostStmt (.label l) s = advance s ∧
    advance s = { s with host := { s.host with pos := s.host.pos + 1 } }) ∧
  (∀ s : State,
    hostStmt .halt s = { s with host := { s.host with halted := true } } ∧
    hostStep (hostStmt .halt s) = hostStmt .halt s ∧
    (s.host.halted = true → hostStep s = s) ∧
    (∀ rest, s.host.halted = true → s.script = .host :: rest → step s = .next { s with script := rest })) ∧
  (∀ s : State, s.host.halted = false →
    (∀ st, s.host.prog[s.host.pos]? = some st → hostStep s = hostStmt st s) ∧
    (s.host.prog[s.host.pos]? = none → hostStep s = s)) ∧
  (∀ (prog : List HostStmt) (l : Nat),
    (∀ pos, findLabel prog l = some pos ↔
      prog[pos]? = some (.label l) ∧ ∀ q, q < pos → prog[q]? ≠ some (.label l)) ∧
    (findLabel prog l = none ↔ .label l ∉ prog))

/-- R116: `WR`, `WRH` and `RD` are one bus transaction each, at `BASE` plus the offset, and go to the next line;
`RD` puts the word read in its scratch variable, and nothing else of the host changes. R117: the expansions of
the pseudo-instructions. -/
def Obligations.HostAccessStatements : Prop :=
  (∀ (s : State) (off : Nat) (k : Scratch) (w : Word), off < 0x10000 → off % 4 = 0 → s.resetLine = false →
    hostStmt (.wr off w) s =
      { serve (writeAt s off w) s with host := { s.host with pos := s.host.pos + 1 } } ∧
    hostStmt (.wrh off k) s =
      { serve (writeAt s off (scratchOf s k)) s with host := { s.host with pos := s.host.pos + 1 } } ∧
    (let t := hostStmt (.rd k off) s
     scratchOf t k = memRead s off ∧ (∀ m, m ≠ k → scratchOf t m = scratchOf s m) ∧
     t.response = .data (memRead s off) ∧ t.host.pos = s.host.pos + 1 ∧ t.host.prog = s.host.prog ∧
     t.host.halted = s.host.halted ∧ { t with host := s.host, response := s.response } = s)) ∧
  (∀ (i : Instr) (p l limbs value : Nat) (r : BigReg),
    ldbig limbs r value =
      (List.range limbs).map (fun j =>
        .wr (windowBase r + 4 * j) (BitVec.ofNat 32 (value / 2 ^ (32 * j)))) ∧
    issue i = [.wr 0x014 (encode i)] ∧
    poll p = [.label p, .rd 7 0x00C, .andi 7 7 1#32, .bnz 7 p] ∧
    runCmd i p = [.wr 0x014 (encode i), .label p, .rd 7 0x00C, .andi 7 7 1#32, .bnz 7 p] ∧
    chkerr l = [.rd 6 0x00C, .andi 6 6 2#32, .bnz 6 l] ∧
    clrint = [.wr 0x010 0x00000003#32])

/-- R117, R82, R86: `LDBIG X, value` writes every limb and leaves `x[X] = value`, in `L` host steps, with
nothing else of the block touched. -/
def Obligations.LdbigPlacesValue : Prop :=
  ∀ (s : State) (r : BigReg) (value : Nat) (pre post : List HostStmt) (rest : List Event),
    s.params.wf = true → s.big.wf s.params → hostWritable r = true → value < s.params.bound →
    s.engine.phase = .idle → s.resetLine = false →
    hostAt s pre (ldbig s.params.limbs r value) post →
    s.script = List.replicate s.params.limbs .host ++ rest →
    ∃ t, core.run s.params.limbs s = .next t ∧
      getBig r t = value ∧ (∀ q, q ≠ r → getBig q t = getBig q s) ∧
      t.host.pos = pre.length + s.params.limbs ∧ t.script = rest ∧
      { t with big := s.big, host := s.host, script := s.script, response := s.response } = s

/-- R117: `POLL` goes round while STATUS.BUSY is 1 and ends when it is 0, so `RUN` leaves BUSY = 0. One
round is four host lines and changes nothing but the host, its `h7` and the response of its read. The label is fresh: no line before it declares it. -/
def Obligations.PollEndsExactlyWhenIdle : Prop :=
  ∀ (s : State) (p : Nat) (pre post : List HostStmt) (rest : List Event),
    hostAt s pre (poll p) post → (∀ st ∈ pre, st ≠ .label p) → s.resetLine = false →
    s.script = List.replicate 4 .host ++ rest →
    ∃ t, core.run 4 s = .next t ∧ t.script = rest ∧
      { t with host := s.host, script := s.script, response := s.response } = s ∧
      t.host.prog = s.host.prog ∧ t.host.halted = false ∧
      (∀ k : Scratch, k ≠ 7 → scratchOf t k = scratchOf s k) ∧
      (s.engine.phase = .idle → t.host.pos = pre.length + 4 ∧ scratchOf t 7 = 0#32) ∧
      (s.engine.phase = .busy → t.host.pos = pre.length ∧ scratchOf t 7 = 1#32)

/-- R134, R244: a host that writes its operands limb by limb and then the command word gets `g^a mod n` in
R0 after the engine's turn, for every `L`. -/
def Obligations.HostDrivenModexp : Prop :=
  ∀ (s : State) (g a n : Nat) (post : List HostStmt) (rest : List Event),
    s.Inv → s.engine.phase = .idle → s.resetLine = false →
    g < s.params.bound → a < s.params.bound → n < s.params.bound → 0 < n →
    hostAt s []
      (ldbig s.params.limbs .a g ++ ldbig s.params.limbs .b a ++ ldbig s.params.limbs .n n ++
        issue .modexp) post →
    s.script = List.replicate (3 * s.params.limbs + 1) .host ++ [.engine] ++ rest →
    ∃ t, core.run (3 * s.params.limbs + 2) s = .next t ∧
      t.big.r0 = g ^ a % n ∧ t.big.a = g ∧ t.big.b = a ∧ t.big.n = n ∧
      t.engine.phase = .idle ∧ t.status.err = false ∧ t.intStatus.doneP = true ∧ t.script = rest
end

