-- ==== Sys2Proof/Laws/State.lean ====
section
/-! SUPPORT. What each update of the state does to each field: one lemma per field and update, so that no
proof unfolds a record update. -/

namespace Sys2Proof.Machine

variable (s : State)

/-! ### resetBlock -/

@[simp] theorem resetBlock_params : (resetBlock s).params = s.params := rfl
@[simp] theorem resetBlock_big : (resetBlock s).big = (State.atReset s.params).big := rfl
@[simp] theorem resetBlock_ctrlIe : (resetBlock s).ctrlIe = false := rfl
@[simp] theorem resetBlock_status : (resetBlock s).status = (State.atReset s.params).status := rfl
@[simp] theorem resetBlock_intStatus : (resetBlock s).intStatus = (State.atReset s.params).intStatus := rfl
@[simp] theorem resetBlock_cmd : (resetBlock s).cmd = 0 := rfl
@[simp] theorem resetBlock_engine : (resetBlock s).engine = Engine.atRest := rfl
@[simp] theorem resetBlock_resetLine : (resetBlock s).resetLine = s.resetLine := rfl
@[simp] theorem resetBlock_response : (resetBlock s).response = s.response := rfl
@[simp] theorem resetBlock_fresh : (resetBlock s).fresh = s.fresh := rfl
@[simp] theorem resetBlock_script : (resetBlock s).script = s.script := rfl
@[simp] theorem resetBlock_host : (resetBlock s).host = s.host := rfl

/-! ### assertReset -/

@[simp] theorem assertReset_params : (assertReset s).params = s.params := rfl
@[simp] theorem assertReset_big : (assertReset s).big = (State.atReset s.params).big := rfl
@[simp] theorem assertReset_ctrlIe : (assertReset s).ctrlIe = false := rfl
@[simp] theorem assertReset_status : (assertReset s).status = (State.atReset s.params).status := rfl
@[simp] theorem assertReset_intStatus : (assertReset s).intStatus = (State.atReset s.params).intStatus := rfl
@[simp] theorem assertReset_cmd : (assertReset s).cmd = 0 := rfl
@[simp] theorem assertReset_engine : (assertReset s).engine = Engine.atRest := rfl
@[simp] theorem assertReset_resetLine : (assertReset s).resetLine = true := rfl
@[simp] theorem assertReset_response : (assertReset s).response = s.response := rfl
@[simp] theorem assertReset_fresh : (assertReset s).fresh = s.fresh := rfl
@[simp] theorem assertReset_script : (assertReset s).script = s.script := rfl
@[simp] theorem assertReset_host : (assertReset s).host = s.host := rfl

/-! ### accept -/

@[simp] theorem accept_params (w : Word) : (accept w s).params = s.params := rfl
@[simp] theorem accept_big (w : Word) : (accept w s).big = s.big := rfl
@[simp] theorem accept_ctrlIe (w : Word) : (accept w s).ctrlIe = s.ctrlIe := rfl
@[simp] theorem accept_status (w : Word) : (accept w s).status = { s.status with err := false, errcode := .none } := rfl
@[simp] theorem accept_intStatus (w : Word) : (accept w s).intStatus = s.intStatus := rfl
@[simp] theorem accept_cmd (w : Word) : (accept w s).cmd = w := rfl
@[simp] theorem accept_engine (w : Word) : (accept w s).engine = { Engine.atRest with phase := .busy } := rfl
@[simp] theorem accept_resetLine (w : Word) : (accept w s).resetLine = s.resetLine := rfl
@[simp] theorem accept_response (w : Word) : (accept w s).response = s.response := rfl
@[simp] theorem accept_fresh (w : Word) : (accept w s).fresh = s.fresh := rfl
@[simp] theorem accept_script (w : Word) : (accept w s).script = s.script := rfl
@[simp] theorem accept_host (w : Word) : (accept w s).host = s.host := rfl

/-! ### complete -/

@[simp] theorem complete_params : (complete s).params = s.params := rfl
@[simp] theorem complete_big : (complete s).big = s.big := rfl
@[simp] theorem complete_ctrlIe : (complete s).ctrlIe = s.ctrlIe := rfl
@[simp] theorem complete_status : (complete s).status = s.status := rfl
@[simp] theorem complete_intStatus : (complete s).intStatus = { s.intStatus with doneP := true } := rfl
@[simp] theorem complete_cmd : (complete s).cmd = s.cmd := rfl
@[simp] theorem complete_engine : (complete s).engine = Engine.atRest := rfl
@[simp] theorem complete_resetLine : (complete s).resetLine = s.resetLine := rfl
@[simp] theorem complete_response : (complete s).response = s.response := rfl
@[simp] theorem complete_fresh : (complete s).fresh = s.fresh := rfl
@[simp] theorem complete_script : (complete s).script = s.script := rfl
@[simp] theorem complete_host : (complete s).host = s.host := rfl

/-! ### commit -/

@[simp] theorem commit_params : (commit s).params = s.params := rfl
@[simp] theorem commit_big : (commit s).big = s.big := rfl
@[simp] theorem commit_ctrlIe : (commit s).ctrlIe = s.ctrlIe := rfl
@[simp] theorem commit_status : (commit s).status = s.status := rfl
@[simp] theorem commit_intStatus : (commit s).intStatus = { s.intStatus with doneP := true } := rfl
@[simp] theorem commit_cmd : (commit s).cmd = s.cmd := rfl
@[simp] theorem commit_engine : (commit s).engine = Engine.atRest := rfl
@[simp] theorem commit_resetLine : (commit s).resetLine = s.resetLine := rfl
@[simp] theorem commit_response : (commit s).response = s.response := rfl
@[simp] theorem commit_fresh : (commit s).fresh = s.fresh := rfl
@[simp] theorem commit_script : (commit s).script = s.script := rfl
@[simp] theorem commit_host : (commit s).host = s.host := rfl

/-! ### raiseCmdError -/

@[simp] theorem raiseCmdError_params (c : ErrCode) : (raiseCmdError c s).params = s.params := rfl
@[simp] theorem raiseCmdError_big (c : ErrCode) : (raiseCmdError c s).big = s.big := rfl
@[simp] theorem raiseCmdError_ctrlIe (c : ErrCode) : (raiseCmdError c s).ctrlIe = s.ctrlIe := rfl
@[simp] theorem raiseCmdError_status (c : ErrCode) : (raiseCmdError c s).status = { s.status with err := true, errcode := c } := rfl
@[simp] theorem raiseCmdError_intStatus (c : ErrCode) : (raiseCmdError c s).intStatus = { s.intStatus with doneP := true } := rfl
@[simp] theorem raiseCmdError_cmd (c : ErrCode) : (raiseCmdError c s).cmd = s.cmd := rfl
@[simp] theorem raiseCmdError_engine (c : ErrCode) : (raiseCmdError c s).engine = Engine.atRest := rfl
@[simp] theorem raiseCmdError_resetLine (c : ErrCode) : (raiseCmdError c s).resetLine = s.resetLine := rfl
@[simp] theorem raiseCmdError_response (c : ErrCode) : (raiseCmdError c s).response = s.response := rfl
@[simp] theorem raiseCmdError_fresh (c : ErrCode) : (raiseCmdError c s).fresh = s.fresh := rfl
@[simp] theorem raiseCmdError_script (c : ErrCode) : (raiseCmdError c s).script = s.script := rfl
@[simp] theorem raiseCmdError_host (c : ErrCode) : (raiseCmdError c s).host = s.host := rfl

/-! ### clearInt -/

@[simp] theorem clearInt_params (v : Word) : (clearInt v s).params = s.params := rfl
@[simp] theorem clearInt_big (v : Word) : (clearInt v s).big = s.big := rfl
@[simp] theorem clearInt_ctrlIe (v : Word) : (clearInt v s).ctrlIe = s.ctrlIe := rfl
@[simp] theorem clearInt_status (v : Word) : (clearInt v s).status = s.status := rfl
@[simp] theorem clearInt_intStatus (v : Word) : (clearInt v s).intStatus = { doneP := writeOneToClear s.intStatus.doneP (v.getLsbD 0), ovr := writeOneToClear s.intStatus.ovr (v.getLsbD 1) } := rfl
@[simp] theorem clearInt_cmd (v : Word) : (clearInt v s).cmd = s.cmd := rfl
@[simp] theorem clearInt_engine (v : Word) : (clearInt v s).engine = s.engine := rfl
@[simp] theorem clearInt_resetLine (v : Word) : (clearInt v s).resetLine = s.resetLine := rfl
@[simp] theorem clearInt_response (v : Word) : (clearInt v s).response = s.response := rfl
@[simp] theorem clearInt_fresh (v : Word) : (clearInt v s).fresh = s.fresh := rfl
@[simp] theorem clearInt_script (v : Word) : (clearInt v s).script = s.script := rfl
@[simp] theorem clearInt_host (v : Word) : (clearInt v s).host = s.host := rfl

/-! ### overrun -/

@[simp] theorem overrun_params : (overrun s).params = s.params := rfl
@[simp] theorem overrun_big : (overrun s).big = s.big := rfl
@[simp] theorem overrun_ctrlIe : (overrun s).ctrlIe = s.ctrlIe := rfl
@[simp] theorem overrun_status : (overrun s).status = s.status := rfl
@[simp] theorem overrun_intStatus : (overrun s).intStatus = { s.intStatus with ovr := true } := rfl
@[simp] theorem overrun_cmd : (overrun s).cmd = s.cmd := rfl
@[simp] theorem overrun_engine : (overrun s).engine = s.engine := rfl
@[simp] theorem overrun_resetLine : (overrun s).resetLine = s.resetLine := rfl
@[simp] theorem overrun_response : (overrun s).response = s.response := rfl
@[simp] theorem overrun_fresh : (overrun s).fresh = s.fresh := rfl
@[simp] theorem overrun_script : (overrun s).script = s.script := rfl
@[simp] theorem overrun_host : (overrun s).host = s.host := rfl

/-! ### setNcop -/

@[simp] theorem setNcop_params (g : Nat) : (setNcop g s).params = s.params := rfl
@[simp] theorem setNcop_big (g : Nat) : (setNcop g s).big = s.big := rfl
@[simp] theorem setNcop_ctrlIe (g : Nat) : (setNcop g s).ctrlIe = s.ctrlIe := rfl
@[simp] theorem setNcop_status (g : Nat) : (setNcop g s).status = { s.status with ncop := ncopOf g } := rfl
@[simp] theorem setNcop_intStatus (g : Nat) : (setNcop g s).intStatus = s.intStatus := rfl
@[simp] theorem setNcop_cmd (g : Nat) : (setNcop g s).cmd = s.cmd := rfl
@[simp] theorem setNcop_engine (g : Nat) : (setNcop g s).engine = s.engine := rfl
@[simp] theorem setNcop_resetLine (g : Nat) : (setNcop g s).resetLine = s.resetLine := rfl
@[simp] theorem setNcop_response (g : Nat) : (setNcop g s).response = s.response := rfl
@[simp] theorem setNcop_fresh (g : Nat) : (setNcop g s).fresh = s.fresh := rfl
@[simp] theorem setNcop_script (g : Nat) : (setNcop g s).script = s.script := rfl
@[simp] theorem setNcop_host (g : Nat) : (setNcop g s).host = s.host := rfl

/-! ### setSigns -/

@[simp] theorem setSigns_params (u v : Int) : (setSigns u v s).params = s.params := rfl
@[simp] theorem setSigns_big (u v : Int) : (setSigns u v s).big = s.big := rfl
@[simp] theorem setSigns_ctrlIe (u v : Int) : (setSigns u v s).ctrlIe = s.ctrlIe := rfl
@[simp] theorem setSigns_status (u v : Int) : (setSigns u v s).status = { s.status with usign := signOf u, vsign := signOf v } := rfl
@[simp] theorem setSigns_intStatus (u v : Int) : (setSigns u v s).intStatus = s.intStatus := rfl
@[simp] theorem setSigns_cmd (u v : Int) : (setSigns u v s).cmd = s.cmd := rfl
@[simp] theorem setSigns_engine (u v : Int) : (setSigns u v s).engine = s.engine := rfl
@[simp] theorem setSigns_resetLine (u v : Int) : (setSigns u v s).resetLine = s.resetLine := rfl
@[simp] theorem setSigns_response (u v : Int) : (setSigns u v s).response = s.response := rfl
@[simp] theorem setSigns_fresh (u v : Int) : (setSigns u v s).fresh = s.fresh := rfl
@[simp] theorem setSigns_script (u v : Int) : (setSigns u v s).script = s.script := rfl
@[simp] theorem setSigns_host (u v : Int) : (setSigns u v s).host = s.host := rfl

/-! ### setComp -/

@[simp] theorem setComp_params (b : Bool) : (setComp b s).params = s.params := rfl
@[simp] theorem setComp_big (b : Bool) : (setComp b s).big = s.big := rfl
@[simp] theorem setComp_ctrlIe (b : Bool) : (setComp b s).ctrlIe = s.ctrlIe := rfl
@[simp] theorem setComp_status (b : Bool) : (setComp b s).status = { s.status with comp := b } := rfl
@[simp] theorem setComp_intStatus (b : Bool) : (setComp b s).intStatus = s.intStatus := rfl
@[simp] theorem setComp_cmd (b : Bool) : (setComp b s).cmd = s.cmd := rfl
@[simp] theorem setComp_engine (b : Bool) : (setComp b s).engine = s.engine := rfl
@[simp] theorem setComp_resetLine (b : Bool) : (setComp b s).resetLine = s.resetLine := rfl
@[simp] theorem setComp_response (b : Bool) : (setComp b s).response = s.response := rfl
@[simp] theorem setComp_fresh (b : Bool) : (setComp b s).fresh = s.fresh := rfl
@[simp] theorem setComp_script (b : Bool) : (setComp b s).script = s.script := rfl
@[simp] theorem setComp_host (b : Bool) : (setComp b s).host = s.host := rfl

/-! ### setWcnt -/

@[simp] theorem setWcnt_params (r : Nat) : (setWcnt r s).params = s.params := rfl
@[simp] theorem setWcnt_big (r : Nat) : (setWcnt r s).big = s.big := rfl
@[simp] theorem setWcnt_ctrlIe (r : Nat) : (setWcnt r s).ctrlIe = s.ctrlIe := rfl
@[simp] theorem setWcnt_status (r : Nat) : (setWcnt r s).status = { s.status with wcnt := BitVec.ofNat 5 r } := rfl
@[simp] theorem setWcnt_intStatus (r : Nat) : (setWcnt r s).intStatus = s.intStatus := rfl
@[simp] theorem setWcnt_cmd (r : Nat) : (setWcnt r s).cmd = s.cmd := rfl
@[simp] theorem setWcnt_engine (r : Nat) : (setWcnt r s).engine = s.engine := rfl
@[simp] theorem setWcnt_resetLine (r : Nat) : (setWcnt r s).resetLine = s.resetLine := rfl
@[simp] theorem setWcnt_response (r : Nat) : (setWcnt r s).response = s.response := rfl
@[simp] theorem setWcnt_fresh (r : Nat) : (setWcnt r s).fresh = s.fresh := rfl
@[simp] theorem setWcnt_script (r : Nat) : (setWcnt r s).script = s.script := rfl
@[simp] theorem setWcnt_host (r : Nat) : (setWcnt r s).host = s.host := rfl

/-! ### drawWitness -/

@[simp] theorem drawWitness_params (lo hi : Nat) : (drawWitness lo hi s).params = s.params := rfl
@[simp] theorem drawWitness_big (lo hi : Nat) : (drawWitness lo hi s).big = s.big := rfl
@[simp] theorem drawWitness_ctrlIe (lo hi : Nat) : (drawWitness lo hi s).ctrlIe = s.ctrlIe := rfl
@[simp] theorem drawWitness_status (lo hi : Nat) : (drawWitness lo hi s).status = s.status := rfl
@[simp] theorem drawWitness_intStatus (lo hi : Nat) : (drawWitness lo hi s).intStatus = s.intStatus := rfl
@[simp] theorem drawWitness_cmd (lo hi : Nat) : (drawWitness lo hi s).cmd = s.cmd := rfl
@[simp] theorem drawWitness_engine (lo hi : Nat) : (drawWitness lo hi s).engine = { s.engine with request := some { lo := lo, hi := hi }, answer := none } := rfl
@[simp] theorem drawWitness_resetLine (lo hi : Nat) : (drawWitness lo hi s).resetLine = s.resetLine := rfl
@[simp] theorem drawWitness_response (lo hi : Nat) : (drawWitness lo hi s).response = s.response := rfl
@[simp] theorem drawWitness_fresh (lo hi : Nat) : (drawWitness lo hi s).fresh = s.fresh := rfl
@[simp] theorem drawWitness_script (lo hi : Nat) : (drawWitness lo hi s).script = s.script := rfl
@[simp] theorem drawWitness_host (lo hi : Nat) : (drawWitness lo hi s).host = s.host := rfl

/-! ### presentCommand -/

@[simp] theorem presentCommand_params (w : Word) : (presentCommand w s).params = s.params := rfl
@[simp] theorem presentCommand_big (w : Word) : (presentCommand w s).big = s.big := rfl
@[simp] theorem presentCommand_ctrlIe (w : Word) : (presentCommand w s).ctrlIe = s.ctrlIe := rfl
@[simp] theorem presentCommand_status (w : Word) : (presentCommand w s).status = { s.status with err := false, errcode := .none } := rfl
@[simp] theorem presentCommand_intStatus (w : Word) : (presentCommand w s).intStatus = s.intStatus := rfl
@[simp] theorem presentCommand_cmd (w : Word) : (presentCommand w s).cmd = w := rfl
@[simp] theorem presentCommand_engine (w : Word) : (presentCommand w s).engine = { Engine.atRest with phase := .busy } := rfl
@[simp] theorem presentCommand_resetLine (w : Word) : (presentCommand w s).resetLine = false := rfl
@[simp] theorem presentCommand_response (w : Word) : (presentCommand w s).response = s.response := rfl
@[simp] theorem presentCommand_fresh (w : Word) : (presentCommand w s).fresh = s.fresh := rfl
@[simp] theorem presentCommand_script (w : Word) : (presentCommand w s).script = [] := rfl
@[simp] theorem presentCommand_host (w : Word) : (presentCommand w s).host = s.host := rfl

/-! ### setScratch -/

@[simp] theorem setScratch_params (k : Scratch) (w : Word) : (setScratch k w s).params = s.params := rfl
@[simp] theorem setScratch_big (k : Scratch) (w : Word) : (setScratch k w s).big = s.big := rfl
@[simp] theorem setScratch_ctrlIe (k : Scratch) (w : Word) : (setScratch k w s).ctrlIe = s.ctrlIe := rfl
@[simp] theorem setScratch_status (k : Scratch) (w : Word) : (setScratch k w s).status = s.status := rfl
@[simp] theorem setScratch_intStatus (k : Scratch) (w : Word) : (setScratch k w s).intStatus = s.intStatus := rfl
@[simp] theorem setScratch_cmd (k : Scratch) (w : Word) : (setScratch k w s).cmd = s.cmd := rfl
@[simp] theorem setScratch_engine (k : Scratch) (w : Word) : (setScratch k w s).engine = s.engine := rfl
@[simp] theorem setScratch_resetLine (k : Scratch) (w : Word) : (setScratch k w s).resetLine = s.resetLine := rfl
@[simp] theorem setScratch_response (k : Scratch) (w : Word) : (setScratch k w s).response = s.response := rfl
@[simp] theorem setScratch_fresh (k : Scratch) (w : Word) : (setScratch k w s).fresh = s.fresh := rfl
@[simp] theorem setScratch_script (k : Scratch) (w : Word) : (setScratch k w s).script = s.script := rfl
@[simp] theorem setScratch_host (k : Scratch) (w : Word) : (setScratch k w s).host = { s.host with scratch := s.host.scratch.set k w } := rfl

/-! ### advance -/

@[simp] theorem advance_params : (advance s).params = s.params := rfl
@[simp] theorem advance_big : (advance s).big = s.big := rfl
@[simp] theorem advance_ctrlIe : (advance s).ctrlIe = s.ctrlIe := rfl
@[simp] theorem advance_status : (advance s).status = s.status := rfl
@[simp] theorem advance_intStatus : (advance s).intStatus = s.intStatus := rfl
@[simp] theorem advance_cmd : (advance s).cmd = s.cmd := rfl
@[simp] theorem advance_engine : (advance s).engine = s.engine := rfl
@[simp] theorem advance_resetLine : (advance s).resetLine = s.resetLine := rfl
@[simp] theorem advance_response : (advance s).response = s.response := rfl
@[simp] theorem advance_fresh : (advance s).fresh = s.fresh := rfl
@[simp] theorem advance_script : (advance s).script = s.script := rfl
@[simp] theorem advance_host : (advance s).host = { s.host with pos := s.host.pos + 1 } := rfl

/-! ### continueAt -/

@[simp] theorem continueAt_params (l : Nat) : (continueAt l s).params = s.params := rfl
@[simp] theorem continueAt_big (l : Nat) : (continueAt l s).big = s.big := rfl
@[simp] theorem continueAt_ctrlIe (l : Nat) : (continueAt l s).ctrlIe = s.ctrlIe := rfl
@[simp] theorem continueAt_status (l : Nat) : (continueAt l s).status = s.status := rfl
@[simp] theorem continueAt_intStatus (l : Nat) : (continueAt l s).intStatus = s.intStatus := rfl
@[simp] theorem continueAt_cmd (l : Nat) : (continueAt l s).cmd = s.cmd := rfl
@[simp] theorem continueAt_engine (l : Nat) : (continueAt l s).engine = s.engine := rfl
@[simp] theorem continueAt_resetLine (l : Nat) : (continueAt l s).resetLine = s.resetLine := rfl
@[simp] theorem continueAt_response (l : Nat) : (continueAt l s).response = s.response := rfl
@[simp] theorem continueAt_fresh (l : Nat) : (continueAt l s).fresh = s.fresh := rfl
@[simp] theorem continueAt_script (l : Nat) : (continueAt l s).script = s.script := rfl
@[simp] theorem continueAt_host (l : Nat) : (continueAt l s).host = { s.host with pos := (findLabel s.host.prog l).getD s.host.prog.length } := rfl

/-! ### setBig: only `big` changes, and in it only the register written -/

@[simp] theorem setBig_params (r : BigReg) (v : Nat) : (setBig r v s).params = s.params := by cases r <;> rfl
@[simp] theorem setBig_ctrlIe (r : BigReg) (v : Nat) : (setBig r v s).ctrlIe = s.ctrlIe := by cases r <;> rfl
@[simp] theorem setBig_status (r : BigReg) (v : Nat) : (setBig r v s).status = s.status := by cases r <;> rfl
@[simp] theorem setBig_intStatus (r : BigReg) (v : Nat) : (setBig r v s).intStatus = s.intStatus := by cases r <;> rfl
@[simp] theorem setBig_cmd (r : BigReg) (v : Nat) : (setBig r v s).cmd = s.cmd := by cases r <;> rfl
@[simp] theorem setBig_engine (r : BigReg) (v : Nat) : (setBig r v s).engine = s.engine := by cases r <;> rfl
@[simp] theorem setBig_resetLine (r : BigReg) (v : Nat) : (setBig r v s).resetLine = s.resetLine := by cases r <;> rfl
@[simp] theorem setBig_response (r : BigReg) (v : Nat) : (setBig r v s).response = s.response := by cases r <;> rfl
@[simp] theorem setBig_fresh (r : BigReg) (v : Nat) : (setBig r v s).fresh = s.fresh := by cases r <;> rfl
@[simp] theorem setBig_script (r : BigReg) (v : Nat) : (setBig r v s).script = s.script := by cases r <;> rfl
@[simp] theorem setBig_host (r : BigReg) (v : Nat) : (setBig r v s).host = s.host := by cases r <;> rfl
@[simp] theorem setBig_a_big (v : Nat) :
    (setBig .a v s).big = { s.big with a := v % s.params.bound } := rfl
@[simp] theorem setBig_b_big (v : Nat) :
    (setBig .b v s).big = { s.big with b := v % s.params.bound } := rfl
@[simp] theorem setBig_n_big (v : Nat) :
    (setBig .n v s).big = { s.big with n := v % s.params.bound } := rfl
@[simp] theorem setBig_r0_big (v : Nat) :
    (setBig .r0 v s).big = { s.big with r0 := v % s.params.bound } := rfl
@[simp] theorem setBig_r1_big (v : Nat) :
    (setBig .r1 v s).big = { s.big with r1 := v % s.params.bound } := rfl
@[simp] theorem setBig_r2_big (v : Nat) :
    (setBig .r2 v s).big = { s.big with r2 := v % s.params.bound } := rfl

@[simp] theorem getBig_setBig_self (r : BigReg) (v : Nat) :
    getBig r (setBig r v s) = v % s.params.bound := by cases r <;> rfl

theorem getBig_setBig_other {r q : BigReg} (h : q ≠ r) (v : Nat) :
    getBig q (setBig r v s) = getBig q s := by cases r <;> cases q <;> first | rfl | exact absurd rfl h

/-! ### deliver: the engine's request, answer and round counter -/

@[simp] theorem discard_eq (v : Nat) : discard v s = s := rfl

theorem deliver_none (v : Nat) (h : s.engine.request = none) : deliver v s = s := by
  simp [deliver, h]

theorem deliver_some (v : Nat) {r : DrawRequest} (h : s.engine.request = some r) :
    deliver v s =
      { s with
        engine :=
          { s.engine with request := none, answer := some v, drawn := s.engine.drawn + 1 } } := by
  simp [deliver, h]

end Sys2Proof.Machine
end

