-- ==== Sys2Proof/Laws/Limbs.lean ====
section
/-! SUPPORT. Limbs of a value, the address decode of the register windows, and the canonical form of the
big registers. -/

namespace Sys2Proof.Machine

theorem limbOf_toNat (x i : Nat) : (limbOf x i).toNat = x / 2 ^ (32 * i) % 2 ^ 32 := by
  simp [limbOf, field]

/-- A value splits at limb `i` into what lies above, the limb, and what lies below. -/
theorem split_at_limb (x i : Nat) :
    x = (x / 2 ^ (32 * i) / 2 ^ 32 * 2 ^ 32 + (limbOf x i).toNat) * 2 ^ (32 * i) + x % 2 ^ (32 * i) := by
  rw [limbOf_toNat, Nat.div_add_mod', Nat.div_add_mod']

/-- What `putLimb` makes: the same parts above and below, the new limb between. -/
theorem putLimb_eq (x i : Nat) (v : Word) :
    putLimb x i v =
      (x / 2 ^ (32 * i) / 2 ^ 32 * 2 ^ 32 + v.toNat) * 2 ^ (32 * i) + x % 2 ^ (32 * i) := by
  have h := split_at_limb x i
  unfold putLimb
  generalize x / 2 ^ (32 * i) / 2 ^ 32 * 2 ^ 32 = hi at *
  generalize x % 2 ^ (32 * i) = lo at *
  generalize 2 ^ (32 * i) = w at *
  rw [Nat.add_mul] at h ⊢
  omega

theorem limbOf_putLimb_self (x i : Nat) (v : Word) : limbOf (putLimb x i v) i = v := by
  apply BitVec.eq_of_toNat_eq
  have hlo : x % 2 ^ (32 * i) < 2 ^ (32 * i) := Nat.mod_lt _ (by positivity)
  rw [limbOf_toNat, putLimb_eq, Nat.add_comm, Nat.add_mul_div_right _ _ (by positivity),
    Nat.div_eq_of_lt hlo, Nat.zero_add, Nat.add_comm, Nat.add_mul_mod_self_right,
    Nat.mod_eq_of_lt v.isLt]

theorem limbOf_putLimb_other (x i j : Nat) (v : Word) (h : j ≠ i) :
    limbOf (putLimb x i v) j = limbOf x j := by
  apply BitVec.eq_of_toNat_eq
  rw [limbOf_toNat, limbOf_toNat, putLimb_eq]
  have hlo : x % 2 ^ (32 * i) < 2 ^ (32 * i) := Nat.mod_lt _ (by positivity)
  rcases Nat.lt_or_gt_of_ne h with hj | hj
  · -- `j` below `i`: only the low part matters
    have hp : 2 ^ (32 * i) = 2 ^ (32 * (i - j - 1)) * 2 ^ 32 * 2 ^ (32 * j) := by
      rw [← pow_add, ← pow_add]; congr 1; omega
    have key : ∀ q : Nat, (q * 2 ^ (32 * i) + x % 2 ^ (32 * i)) / 2 ^ (32 * j) % 2 ^ 32 =
        x % 2 ^ (32 * i) / 2 ^ (32 * j) % 2 ^ 32 := fun q => by
      rw [hp, show q * (2 ^ (32 * (i - j - 1)) * 2 ^ 32 * 2 ^ (32 * j)) =
        q * 2 ^ (32 * (i - j - 1)) * 2 ^ 32 * 2 ^ (32 * j) by ring, Nat.add_comm,
        Nat.add_mul_div_right _ _ (by positivity), Nat.add_mul_mod_self_right]
    rw [key, ← key (x / 2 ^ (32 * i)), Nat.div_add_mod']
  · -- `j` above `i`: only the high part matters
    have hp : 2 ^ (32 * j) = 2 ^ (32 * i) * (2 ^ 32 * 2 ^ (32 * (j - i - 1))) := by
      rw [← pow_add, ← pow_add]; congr 1; omega
    have key : ∀ c lo : Nat, c < 2 ^ 32 → lo < 2 ^ (32 * i) →
        ((x / 2 ^ (32 * i) / 2 ^ 32 * 2 ^ 32 + c) * 2 ^ (32 * i) + lo) / 2 ^ (32 * j) =
          x / 2 ^ (32 * i) / 2 ^ 32 / 2 ^ (32 * (j - i - 1)) := fun c lo hc hl => by
      rw [hp, ← Nat.div_div_eq_div_mul, ← Nat.div_div_eq_div_mul, Nat.add_comm,
        Nat.add_mul_div_right _ _ (by positivity), Nat.div_eq_of_lt hl, Nat.zero_add, Nat.add_comm,
        Nat.add_mul_div_right _ _ (by positivity), Nat.div_eq_of_lt hc, Nat.zero_add]
    rw [key _ _ v.isLt hlo, ← key _ _ (limbOf x i).isLt hlo, ← split_at_limb]

/-- Writing a limb below `L` keeps a value below `2^W`: the canonical form (10_state.md R33). -/
theorem putLimb_lt {p : Params} {x i : Nat} (v : Word) (hx : x < p.bound) (hi : i < p.limbs) :
    putLimb x i v < p.bound := by
  have hb : p.bound = 2 ^ (32 * (p.limbs - i - 1)) * 2 ^ 32 * 2 ^ (32 * i) := by
    rw [Params.bound, Params.width, ← pow_add, ← pow_add]; congr 1; omega
  rw [putLimb_eq]
  have hlo : x % 2 ^ (32 * i) < 2 ^ (32 * i) := Nat.mod_lt _ (by positivity)
  have hhi : x / 2 ^ (32 * i) / 2 ^ 32 < 2 ^ (32 * (p.limbs - i - 1)) := by
    rw [Nat.div_div_eq_div_mul]
    apply Nat.div_lt_of_lt_mul
    calc x < p.bound := hx
      _ = _ := by rw [hb]; ring
  have hv := v.isLt
  rw [hb]
  generalize x / 2 ^ (32 * i) / 2 ^ 32 = hi' at *
  generalize x % 2 ^ (32 * i) = lo at *
  generalize 2 ^ (32 * (p.limbs - i - 1)) = H at *
  generalize 2 ^ (32 * i) = w at *
  have h1 : hi' * 2 ^ 32 + v.toNat + 1 ≤ H * 2 ^ 32 := by omega
  calc (hi' * 2 ^ 32 + v.toNat) * w + lo < (hi' * 2 ^ 32 + v.toNat + 1) * w := by
        rw [Nat.add_mul _ 1, Nat.one_mul]; omega
    _ ≤ H * 2 ^ 32 * w := Nat.mul_le_mul_right _ h1

theorem bound_pos (p : Params) : 0 < p.bound := by unfold Params.bound; positivity

/-- In canonical form a register is below `2^W`. -/
theorem getBig_lt {s : State} (h : s.big.wf s.params) (r : BigReg) : getBig r s < s.params.bound := by
  obtain ⟨ha, hb, hn, h0, h1, h2⟩ := h
  cases r <;> assumption

/-- A register write keeps the canonical form. -/
theorem setBig_wf {s : State} (h : s.big.wf s.params) (r : BigReg) (v : Nat) :
    (setBig r v s).big.wf s.params := by
  obtain ⟨ha, hb, hn, h0, h1, h2⟩ := h
  have hv : v % s.params.bound < s.params.bound := Nat.mod_lt _ (bound_pos _)
  cases r <;> exact ⟨by assumption, by assumption, by assumption, by assumption, by assumption,
    by assumption⟩

/-- The reset values are in canonical form. -/
theorem reset_wf (p : Params) : (State.atReset p).big.wf p :=
  ⟨bound_pos p, bound_pos p, bound_pos p, bound_pos p, bound_pos p, bound_pos p⟩

/-- The windows of 20_memory.md R81: what the offset of limb `i` names. -/
theorem decodeOffset_window (p : Params) (r : BigReg) {i : Nat} (hi : i ≤ 1023) :
    decodeOffset p (windowBase r + 4 * i) = if i < p.limbs then .limb r i else .beyond := by
  have hn : regNumber r ≤ 5 := by cases r <;> decide
  have h1 : ¬ windowBase r + 4 * i < 0x1000 := by unfold windowBase; omega
  have h2 : (windowBase r + 4 * i) / 0x1000 - 1 = regNumber r := by unfold windowBase; omega
  have h3 : (windowBase r + 4 * i) % 0x1000 / 4 = i := by unfold windowBase; omega
  have h4 : regOfNumber (regNumber r) = some r := by cases r <;> rfl
  simp only [decodeOffset, if_neg h1, h2, h3, h4]

/-- A limb that the address decode names is one of the register's. -/
theorem decodeOffset_limb {p : Params} {off i : Nat} {r : BigReg}
    (h : decodeOffset p off = .limb r i) : i < p.limbs := by
  unfold decodeOffset at h
  split at h
  · split at h <;> cases h
  · split at h
    · split at h
      · cases h; assumption
      · cases h
    · cases h

/-- An offset that names a limb lies in that limb's word of the window (20_memory.md R81, R82). -/
theorem decodeOffset_limb_word {p : Params} {off i : Nat} {r : BigReg}
    (h : decodeOffset p off = .limb r i) : off / 4 * 4 = windowBase r + 4 * i := by
  have hreg : ∀ n, regOfNumber n = some r → n = regNumber r := by
    intro n hn
    unfold regOfNumber at hn
    split at hn <;> cases hn <;> rfl
  unfold decodeOffset at h
  split at h
  · split at h <;> cases h
  · split at h
    · rename_i r' hr
      split at h
      · cases h
        have := hreg _ hr
        unfold windowBase
        omega
      · cases h
    · cases h

end Sys2Proof.Machine
end

