-- ==== Sys2Proof/Laws/PerInstr.lean ====
section
/-! SUPPORT. Facts about each command as syntax, one lemma per constructor. -/

namespace Sys2Proof.Laws.Spelling

/-- A command is well formed, its word has RSV = 0 and a legal OP (30_encoding.md R111, R112), and its
mnemonic assembles to it (R115). -/
def Statement (i : Instr) : Prop :=
  i.wf = true ∧ rsvField (encode i) = 0 ∧ decodeOp (opField (encode i)) = .ok i ∧
  assemble (mnemonicOf i) = some i

theorem modexp : Statement .modexp := ⟨rfl, rfl, rfl, by decide⟩
theorem xgcd : Statement .xgcd := ⟨rfl, rfl, rfl, by decide⟩
theorem modinv : Statement .modinv := ⟨rfl, rfl, rfl, by decide⟩
theorem mrw : Statement .mrw := ⟨rfl, rfl, rfl, by decide⟩
theorem mrpp : Statement .mrpp := ⟨rfl, rfl, rfl, by decide⟩

end Sys2Proof.Laws.Spelling
end

