-- ==== Sys2Proof/Laws/Steps.lean ====
section
/-! SUPPORT. What each shared operation, each command and each step can do, said once: the later proofs
cite these inversions and do not unfold the operations. -/

namespace Sys2Proof.Machine

/-! ### The bus -/

/-- The control registers that have side effects stand at one offset each (20_memory.md R81). -/
theorem decodeOffset_ctrl {p : Params} {off : Nat} (h : decodeOffset p off = .ctrl) : off = 0x008 := by
  unfold decodeOffset at h
  repeat' split at h
  all_goals first | rfl | simp at h

theorem decodeOffset_intStatus {p : Params} {off : Nat} (h : decodeOffset p off = .intStatus) :
    off = 0x010 := by
  unfold decodeOffset at h
  repeat' split at h
  all_goals first | rfl | simp at h

theorem decodeOffset_cmd {p : Params} {off : Nat} (h : decodeOffset p off = .cmd) : off = 0x014 := by
  unfold decodeOffset at h
  repeat' split at h
  all_goals first | rfl | simp at h

/-- Everything a host write can do to the state. -/
theorem memWrite_cases (off : Nat) (v : Word) (s : State) :
    memWrite off v s = s ∨
    (off = 0x008 ∧ v.getLsbD 1 = true ∧ memWrite off v s = resetBlock s) ∨
    (off = 0x008 ∧ v.getLsbD 1 = false ∧ memWrite off v s = { s with ctrlIe := v.getLsbD 0 }) ∨
    (off = 0x010 ∧ memWrite off v s = clearInt v s) ∨
    (s.engine.phase = .busy ∧
      (off = 0x014 ∨ ∃ r i, hostWritable r = true ∧ i < s.params.limbs ∧
        off / 4 * 4 = windowBase r + 4 * i) ∧ memWrite off v s = overrun s) ∨
    (off = 0x014 ∧ s.engine.phase ≠ .busy ∧ memWrite off v s = accept v s) ∨
    ∃ r i, s.engine.phase ≠ .busy ∧ hostWritable r = true ∧ i < s.params.limbs ∧
      off / 4 * 4 = windowBase r + 4 * i ∧ memWrite off v s = setBig r (putLimb (getBig r s) i v) s := by
  unfold memWrite
  cases h : decodeOffset s.params off with
  | id | param | status | beyond | reserved => exact .inl rfl
  | ctrl =>
    simp only [writeTarget, writeCtrl]
    split
    · exact .inr (.inl ⟨decodeOffset_ctrl h, ‹_›, rfl⟩)
    · exact .inr (.inr (.inl ⟨decodeOffset_ctrl h, eq_false_of_ne_true ‹_›, rfl⟩))
  | intStatus => exact .inr (.inr (.inr (.inl ⟨decodeOffset_intStatus h, rfl⟩)))
  | cmd =>
    simp only [writeTarget, writeCmd, busy, decide_eq_true_eq]
    split
    · exact .inr (.inr (.inr (.inr (.inl ⟨‹_›, .inl (decodeOffset_cmd h), rfl⟩))))
    · exact .inr (.inr (.inr (.inr (.inr (.inl ⟨decodeOffset_cmd h, ‹_›, rfl⟩)))))
  | limb r i =>
    simp only [writeTarget, writeLimb, busy, decide_eq_true_eq]
    split
    · split
      · exact .inr (.inr (.inr (.inr (.inl
          ⟨‹_›, .inr ⟨r, i, ‹_›, decodeOffset_limb h, decodeOffset_limb_word h⟩, rfl⟩))))
      · exact .inr (.inr (.inr (.inr (.inr (.inr
          ⟨r, i, ‹_›, ‹_›, decodeOffset_limb h, decodeOffset_limb_word h, rfl⟩)))))
    · exact .inl rfl

/-- Everything a bus transaction can do: it changes the response and the counter of free values, and a
write that is served, a 32-bit one at an aligned offset of the space, does what `memWrite` says. -/
theorem serve_cases (t : BusTxn) (s : State) :
    (∃ resp f, serve t s = { s with response := resp, fresh := f }) ∨
    ∃ off v, s.resetLine = false ∧ off < 0x10000 ∧ off % 4 = 0 ∧
      t = { op := .write v, bytes := 4, addr := s.params.base + off } ∧
      serve t s = { memWrite off v s with response := .written } := by
  obtain ⟨op, bytes, addr⟩ := t
  unfold serve
  split
  · exact .inl ⟨_, _, rfl⟩
  · have hr : s.resetLine = false := eq_false_of_ne_true ‹_›
    split
    · exact .inl ⟨_, _, rfl⟩
    · rename_i hs
      split
      · unfold raiseBusError
        split <;> exact .inl ⟨_, _, rfl⟩
      · rename_i ha
        rw [Bool.not_eq_true', Bool.not_eq_false, selected, Bool.and_eq_true, decide_eq_true_eq,
          decide_eq_true_eq, spaceBytes] at hs
        rw [Bool.not_eq_true', Bool.not_eq_false, accessOk, Bool.and_eq_true, decide_eq_true_eq,
          decide_eq_true_eq] at ha
        cases op with
        | read => exact .inl ⟨_, _, rfl⟩
        | write v =>
          have h1 : s.params.base ≤ addr := hs.1
          have h2 : addr < s.params.base + 0x10000 := hs.2
          refine .inr ⟨addr - s.params.base, v, hr, by omega, ha.2, ?_, rfl⟩
          rw [show bytes = 4 from ha.1, Nat.add_sub_cancel' h1]

/-- A transaction outside the block's 64 KiB changes nothing of the block (20_memory.md R80, log 10). -/
theorem serve_elsewhere {s : State} {t : BusTxn} (hr : s.resetLine = false)
    (h : t.addr < s.params.base ∨ s.params.base + 0x10000 ≤ t.addr) :
    serve t s = { s with response := .elsewhere } := by
  have : selected s t = false := by
    rw [selected, Bool.and_eq_false_iff, decide_eq_false_iff_not, decide_eq_false_iff_not, spaceBytes]
    omega
  simp [serve, hr, this]

/-- A 32-bit access at an aligned offset of the space is served (20_memory.md R84). -/
theorem serve_aligned (s : State) (op : BusOp) {off : Nat} (hr : s.resetLine = false)
    (hlt : off < 0x10000) (hal : off % 4 = 0) :
    serve { op := op, bytes := 4, addr := s.params.base + off } s =
      match op with
      | .read => { s with response := .data (memRead s off) }
      | .write v => { memWrite off v s with response := .written } := by
  have h1 : selected s { op := op, bytes := 4, addr := s.params.base + off } = true := by
    simp [selected, spaceBytes, hlt]
  have h2 : offsetOf s { op := op, bytes := 4, addr := s.params.base + off } = off := by
    simp [offsetOf]
  have h3 : accessOk s { op := op, bytes := 4, addr := s.params.base + off } = true := by
    simp [accessOk, h2, hal]
  unfold serve
  rw [h1, h2, h3, hr]
  cases op <;> simp

/-! The control registers by their offsets (20_memory.md R81). -/

@[simp] theorem memRead_id (s : State) : memRead s 0x000 = idValue := rfl
@[simp] theorem memRead_param (s : State) : memRead s 0x004 = paramWord s.params := rfl
@[simp] theorem memRead_ctrl (s : State) : memRead s 0x008 = ctrlWord s := rfl
@[simp] theorem memRead_status (s : State) : memRead s 0x00C = statusWord s := rfl
@[simp] theorem memRead_intStatus (s : State) : memRead s 0x010 = intStatusWord s := by
  simp [memRead, decodeOffset, readTarget]
@[simp] theorem memRead_cmd (s : State) : memRead s 0x014 = s.cmd := by
  simp [memRead, decodeOffset, readTarget]

theorem memWrite_ctrl (v : Word) (s : State) :
    memWrite 0x008 v s = if v.getLsbD 1 = true then resetBlock s else { s with ctrlIe := v.getLsbD 0 } :=
  rfl
theorem memWrite_intStatus (v : Word) (s : State) : memWrite 0x010 v s = clearInt v s := by
  simp [memWrite, decodeOffset, writeTarget]
theorem memWrite_cmd (v : Word) (s : State) :
    memWrite 0x014 v s = if busy s = true then overrun s else accept v s := by
  simp [memWrite, decodeOffset, writeTarget, writeCmd]

/-- A read of a register window (20_memory.md R82, R83). -/
theorem memRead_window (s : State) (r : BigReg) {i : Nat} (hi : i ≤ 1023) :
    memRead s (windowBase r + 4 * i) = if i < s.params.limbs then limbOf (getBig r s) i else 0 := by
  unfold memRead
  rw [decodeOffset_window _ r hi]
  split <;> rfl

/-- A write of a register window (20_memory.md R82, R83, R87, R88). -/
theorem memWrite_window (s : State) (r : BigReg) {i : Nat} (hi : i ≤ 1023) (v : Word) :
    memWrite (windowBase r + 4 * i) v s = if i < s.params.limbs then writeLimb r i v s else s := by
  unfold memWrite
  rw [decodeOffset_window _ r hi]
  split <;> rfl

theorem busy_iff (s : State) : busy s = true ↔ s.engine.phase = .busy := by simp [busy]

/-! ### The host agent -/

/-- A `WR` or `WRH` is its bus write, and what it does to the host. -/
theorem hostWrite_cases (off : Nat) (w : Word) (s : State) :
    ∃ h, hostWrite off w s = { serve (hostTxn s (.write w) off) s with host := h } := by
  unfold hostWrite
  split
  · exact ⟨(serve (hostTxn s (.write w) off) s).host, rfl⟩
  · exact ⟨_, rfl⟩

/-- A read changes the host, the response and the counter of free values. -/
theorem hostRead_cases (k : Scratch) (off : Nat) (s : State) :
    ∃ h r f, hostRead k off s = { s with host := h, response := r, fresh := f } := by
  rcases serve_cases (hostTxn s .read off) s with ⟨r, f, e⟩ | ⟨_, _, _, _, _, e, _⟩
  · unfold hostRead receive
    rw [e]
    split
    · exact ⟨s.host, r, f, rfl⟩
    · split <;> exact ⟨_, _, _, rfl⟩
  · exact absurd (congrArg BusTxn.op e) (by simp [hostTxn])

/-- Everything a host line can do outside the host: nothing but a read, or the bus write of a `WR` or
`WRH`. -/
theorem hostStep_cases (s : State) :
    (∃ h r f, hostStep s = { s with host := h, response := r, fresh := f }) ∨
    ∃ off w h, s.host.halted = false ∧
      (s.host.prog[s.host.pos]? = some (.wr off w) ∨
        ∃ k, s.host.prog[s.host.pos]? = some (.wrh off k) ∧ scratchOf s k = w) ∧
      hostStep s = { serve (hostTxn s (.write w) off) s with host := h } := by
  unfold hostStep
  split
  · exact .inl ⟨_, _, _, rfl⟩
  · have hh : s.host.halted = false := eq_false_of_ne_true ‹_›
    split
    · rename_i st hst
      cases st with
      | wr off imm =>
        obtain ⟨h, e⟩ := hostWrite_cases off imm s
        exact .inr ⟨off, imm, h, hh, .inl hst, e⟩
      | wrh off k =>
        obtain ⟨h, e⟩ := hostWrite_cases off (scratchOf s k) s
        exact .inr ⟨off, _, h, hh, .inr ⟨k, hst, rfl⟩, e⟩
      | rd k off => exact .inl (hostRead_cases k off s)
      | addi k j imm => exact .inl ⟨_, _, _, rfl⟩
      | andi k j imm => exact .inl ⟨_, _, _, rfl⟩
      | bz k l => simp only [hostStmt]; split <;> exact .inl ⟨_, _, _, rfl⟩
      | bnz k l => simp only [hostStmt]; split <;> exact .inl ⟨_, _, _, rfl⟩
      | jmp l => exact .inl ⟨_, _, _, rfl⟩
      | halt => exact .inl ⟨_, _, _, rfl⟩
      | label l => exact .inl ⟨_, _, _, rfl⟩
    · exact .inl ⟨_, _, _, rfl⟩

/-! ### The commands, over the registers they read -/

theorem execModexp_eq (s : State) :
    execModexp s =
      if s.big.n = 0 then .next (raiseCmdError .divZero s)
      else .next (commit (setBig .r0 (modexpCore s.big.a s.big.b s.big.n) s)) := rfl

theorem execXgcd_eq (s : State) :
    execXgcd s =
      if s.big.b = 0 then .next (raiseCmdError .divZero s)
      else .next (commit (setNcop (xgcdCore s.big.a s.big.b).g
        (setSigns (xgcdCore s.big.a s.big.b).u (xgcdCore s.big.a s.big.b).v
          (setBig .r2 (xgcdCore s.big.a s.big.b).v.natAbs
            (setBig .r1 (xgcdCore s.big.a s.big.b).u.natAbs
              (setBig .r0 (xgcdCore s.big.a s.big.b).g s)))))) := rfl

theorem execModinv_eq (s : State) :
    execModinv s =
      if s.big.n = 0 then .next (raiseCmdError .divZero s)
      else if (xgcdCore s.big.a s.big.n).g ≠ 1 then
        .next (raiseCmdError .nonCoprime (setNcop (xgcdCore s.big.a s.big.n).g s))
      else .next (commit (setBig .r0 ((xgcdCore s.big.a s.big.n).u % (s.big.n : Int)).toNat
        (setNcop (xgcdCore s.big.a s.big.n).g s))) := rfl

theorem execMrw_eq (s : State) :
    execMrw s =
      if s.big.n = 1 then .next (raiseCmdError .range s)
      else .next (commit (setComp (mrWitness s.big.n s.big.a) s)) := rfl

theorem mrppNextRound_eq (s : State) :
    mrppNextRound s =
      if s.engine.drawn < mrRounds then drawWitness 2 (s.big.n - 1) s
      else mrppVerdict false mrRounds s := rfl

theorem mrppTest_eq (a : Nat) (s : State) :
    mrppTest a s =
      if a < 2 ∨ s.big.n - 2 < a then raiseCmdError .rng s
      else if mrWitness s.big.n a = true then mrppVerdict true s.engine.drawn s
      else mrppNextRound s := rfl

theorem execMrpp_eq (s : State) :
    execMrpp s =
      if s.big.n < 2 then .next (mrppVerdict true 0 s)
      else if s.big.n = 2 ∨ s.big.n = 3 then .next (mrppVerdict false 0 s)
      else if s.big.n % 2 = 0 then .next (mrppVerdict true 0 s)
      else
        match s.engine.answer with
        | some a => .next (mrppTest a s)
        | none => .next (mrppNextRound s) := rfl

/-! ### Everything a command can do -/

/-- Everything MODEXP can do. -/
theorem execModexp_cases (s : State) :
    (s.big.n = 0 ∧ execModexp s = .next (raiseCmdError .divZero s)) ∨
    (s.big.n ≠ 0 ∧ execModexp s =
      .next (commit (setBig .r0 (modexpCore s.big.a s.big.b s.big.n) s))) := by
  rw [execModexp_eq]
  split
  · exact .inl ⟨‹_›, rfl⟩
  · exact .inr ⟨‹_›, rfl⟩

/-- Everything XGCD can do. -/
theorem execXgcd_cases (s : State) :
    (s.big.b = 0 ∧ execXgcd s = .next (raiseCmdError .divZero s)) ∨
    (s.big.b ≠ 0 ∧ execXgcd s =
      .next (commit (setNcop (xgcdCore s.big.a s.big.b).g
        (setSigns (xgcdCore s.big.a s.big.b).u (xgcdCore s.big.a s.big.b).v
          (setBig .r2 (xgcdCore s.big.a s.big.b).v.natAbs
            (setBig .r1 (xgcdCore s.big.a s.big.b).u.natAbs
              (setBig .r0 (xgcdCore s.big.a s.big.b).g s))))))) := by
  rw [execXgcd_eq]
  split
  · exact .inl ⟨‹_›, rfl⟩
  · exact .inr ⟨‹_›, rfl⟩

/-- Everything MODINV can do. -/
theorem execModinv_cases (s : State) :
    (s.big.n = 0 ∧ execModinv s = .next (raiseCmdError .divZero s)) ∨
    (s.big.n ≠ 0 ∧ (xgcdCore s.big.a s.big.n).g ≠ 1 ∧ execModinv s =
      .next (raiseCmdError .nonCoprime (setNcop (xgcdCore s.big.a s.big.n).g s))) ∨
    (s.big.n ≠ 0 ∧ (xgcdCore s.big.a s.big.n).g = 1 ∧ execModinv s =
      .next (commit (setBig .r0 ((xgcdCore s.big.a s.big.n).u % (s.big.n : Int)).toNat
        (setNcop (xgcdCore s.big.a s.big.n).g s)))) := by
  rw [execModinv_eq]
  split
  · exact .inl ⟨‹_›, rfl⟩
  · split
    · exact .inr (.inl ⟨‹_›, ‹_›, rfl⟩)
    · exact .inr (.inr ⟨‹_›, not_not.mp ‹_›, rfl⟩)

/-- Everything MRW can do. -/
theorem execMrw_cases (s : State) :
    (s.big.n = 1 ∧ execMrw s = .next (raiseCmdError .range s)) ∨
    (s.big.n ≠ 1 ∧ execMrw s = .next (commit (setComp (mrWitness s.big.n s.big.a) s))) := by
  rw [execMrw_eq]
  split
  · exact .inl ⟨‹_›, rfl⟩
  · exact .inr ⟨‹_›, rfl⟩

/-- Everything the head of MRPP's loop can do. -/
theorem mrppNextRound_cases (s : State) :
    (s.engine.drawn < mrRounds ∧ mrppNextRound s = drawWitness 2 (s.big.n - 1) s) ∨
    (mrRounds ≤ s.engine.drawn ∧ mrppNextRound s = mrppVerdict false mrRounds s) := by
  rw [mrppNextRound_eq]
  split
  · exact .inl ⟨‹_›, rfl⟩
  · exact .inr ⟨by omega, rfl⟩

/-- Everything one engine step of MRPP can do: a verdict with no draw, an error, a verdict of the round,
the next request, or the verdict after the last round. -/
theorem execMrpp_cases (s : State) :
    (∃ b, (s.big.n < 4 ∨ s.big.n % 2 = 0) ∧ execMrpp s = .next (mrppVerdict b 0 s)) ∨
    (5 ≤ s.big.n ∧ s.big.n % 2 = 1 ∧
      ((∃ a, s.engine.answer = some a ∧ (a < 2 ∨ s.big.n - 2 < a) ∧
          execMrpp s = .next (raiseCmdError .rng s)) ∨
        (∃ a, s.engine.answer = some a ∧ 2 ≤ a ∧ a ≤ s.big.n - 2 ∧ mrWitness s.big.n a = true ∧
          execMrpp s = .next (mrppVerdict true s.engine.drawn s)) ∨
        ((∀ a, s.engine.answer = some a → 2 ≤ a ∧ a ≤ s.big.n - 2 ∧ mrWitness s.big.n a = false) ∧
          ((s.engine.drawn < mrRounds ∧
              execMrpp s = .next (drawWitness 2 (s.big.n - 1) s)) ∨
            (mrRounds ≤ s.engine.drawn ∧
              execMrpp s = .next (mrppVerdict false mrRounds s)))))) := by
  rw [execMrpp_eq]
  by_cases h1 : s.big.n < 2
  · rw [if_pos h1]; exact .inl ⟨true, .inl (by omega), rfl⟩
  by_cases h2 : s.big.n = 2 ∨ s.big.n = 3
  · rw [if_neg h1, if_pos h2]; exact .inl ⟨false, .inl (by omega), rfl⟩
  by_cases h3 : s.big.n % 2 = 0
  · rw [if_neg h1, if_neg h2, if_pos h3]; exact .inl ⟨true, .inr h3, rfl⟩
  rw [if_neg h1, if_neg h2, if_neg h3]
  refine .inr ⟨by omega, by omega, ?_⟩
  cases ha : s.engine.answer with
  | none =>
    refine .inr (.inr ⟨fun _ h => (nomatch h), ?_⟩)
    rcases mrppNextRound_cases s with ⟨h, e⟩ | ⟨h, e⟩
    · exact .inl ⟨h, congrArg _ e⟩
    · exact .inr ⟨h, congrArg _ e⟩
  | some a =>
    simp only [mrppTest_eq]
    by_cases h4 : a < 2 ∨ s.big.n - 2 < a
    · rw [if_pos h4]; exact .inl ⟨a, rfl, h4, rfl⟩
    rw [if_neg h4]
    have h5 : 2 ≤ a ∧ a ≤ s.big.n - 2 := by omega
    cases hw : mrWitness s.big.n a with
    | true => exact .inr (.inl ⟨a, rfl, h5.1, h5.2, hw, rfl⟩)
    | false =>
      refine .inr (.inr ⟨fun b hb => (by cases hb; exact ⟨h5.1, h5.2, hw⟩), ?_⟩)
      rcases mrppNextRound_cases s with ⟨h, e⟩ | ⟨h, e⟩
      · exact .inl ⟨h, congrArg _ e⟩
      · exact .inr ⟨h, congrArg _ e⟩

/-! ### The engine and the step -/

/-- What a command ends in, whatever it computes: the state `u` holds its results or its error, and either
it has completed, or it is an MRPP that has issued a request. `u` keeps everything but R0, R1, R2 and the
status fields. -/
theorem exec_cases (i : Instr) (s : State) :
    (∃ r0 r1 r2 st, exec i s =
      .next (complete { s with big := { s.big with r0 := r0, r1 := r1, r2 := r2 }, status := st })) ∨
    (i = .mrpp ∧ 5 ≤ s.big.n ∧ s.big.n % 2 = 1 ∧ s.engine.drawn < mrRounds ∧
      exec i s = .next (drawWitness 2 (s.big.n - 1) s)) := by
  cases i with
  | modexp =>
    rcases execModexp_cases s with ⟨-, h⟩ | ⟨-, h⟩ <;> exact .inl ⟨_, _, _, _, h⟩
  | xgcd =>
    rcases execXgcd_cases s with ⟨-, h⟩ | ⟨-, h⟩ <;> exact .inl ⟨_, _, _, _, h⟩
  | modinv =>
    rcases execModinv_cases s with ⟨-, h⟩ | ⟨-, -, h⟩ | ⟨-, -, h⟩ <;> exact .inl ⟨_, _, _, _, h⟩
  | mrw =>
    rcases execMrw_cases s with ⟨-, h⟩ | ⟨-, h⟩ <;> exact .inl ⟨_, _, _, _, h⟩
  | mrpp =>
    rcases execMrpp_cases s with ⟨b, -, h⟩ | ⟨h5, ho, ⟨a, -, -, h⟩ | ⟨a, -, -, -, -, h⟩ |
      ⟨-, ⟨hd, h⟩ | ⟨-, h⟩⟩⟩
    · exact .inl ⟨_, _, _, _, h⟩
    · exact .inl ⟨_, _, _, _, h⟩
    · exact .inl ⟨_, _, _, _, h⟩
    · exact .inr ⟨rfl, h5, ho, hd, h⟩
    · exact .inl ⟨_, _, _, _, h⟩

/-- The engine is ready exactly when it is busy with no request outstanding (10_state.md R60). -/
theorem engineReady_iff (s : State) :
    engineReady s = true ↔ s.engine.phase = .busy ∧ s.engine.request = none := by
  simp [engineReady, busy]

/-- Everything the engine's turn can do. -/
theorem engineStep_cases (s : State) :
    (engineReady s = false ∧ engineStep s = .next s) ∨
    (engineReady s = true ∧ (∃ e, decodeCmd s.cmd = .error e) ∧
      engineStep s = .next (raiseCmdError .illegal s)) ∨
    ∃ i, engineReady s = true ∧ decodeCmd s.cmd = .ok i ∧ engineStep s = exec i s := by
  unfold engineStep
  cases hr : engineReady s with
  | false => exact .inl ⟨rfl, rfl⟩
  | true =>
    rw [if_pos rfl]
    unfold evaluate
    cases h : decodeCmd s.cmd with
    | ok i => exact .inr (.inr ⟨i, rfl, rfl, rfl⟩)
    | error e => exact .inr (.inl ⟨rfl, ⟨e, rfl⟩, rfl⟩)

/-- A step is the engine's turn, or its event performed on the state without it. -/
theorem step_nil {s : State} (h : s.script = []) : step s = engineStep s := by
  simp [step, nextTurn, h]

theorem step_cons {s : State} {e : Event} {rest : List Event} (h : s.script = e :: rest) :
    step s = perform e { s with script := rest } := by
  simp [step, nextTurn, h]

/-- The state without the event that a step performs. -/
def State.popped (s : State) : State := { s with script := s.script.tail }

/-- Everything a step can do, by the head of the script (log 2). -/
theorem step_cases {s s' : State} (h : step s = .next s') :
    ((s.script = [] ∨ s.script.head? = some .engine) ∧ engineStep s.popped = .next s') ∨
    (∃ t, (s.script.head? = some (.bus t) ∨
        s.script.head? = some (.busAndEngine t) ∧ s.engine.phase ≠ .busy) ∧ s' = serve t s.popped) ∨
    (∃ t, s.script.head? = some (.busAndEngine t) ∧ s.engine.phase = .busy ∧
      engineStep (serve t s.popped) = .next s') ∨
    (s.script.head? = some .host ∧ s' = hostStep s.popped) ∨
    (∃ a, s.script.head? = some (.answer a) ∧ s' = deliver a s.popped) ∨
    ((∃ a, s.script.head? = some (.staleAnswer a)) ∧ s' = s.popped) ∨
    (s.script.head? = some .assertReset ∧ s' = assertReset s.popped) ∨
    (s.script.head? = some .releaseReset ∧ s' = releaseReset s.popped) := by
  have hp : ∀ l, s.script = l → s.popped = { s with script := l.tail } := fun l h => by
    rw [State.popped, h]
  cases hs : s.script with
  | nil =>
    rw [step_nil hs] at h
    have : s.popped = s := by rw [hp _ hs, List.tail_nil, ← hs]
    exact .inl ⟨.inl rfl, by rw [this]; exact h⟩
  | cons e rest =>
    rw [step_cons hs, show { s with script := rest } = s.popped from (hp _ hs).symm] at h
    have hb : busy s.popped = true ↔ s.engine.phase = .busy := busy_iff s.popped
    cases e with
    | bus t => cases h; exact .inr (.inl ⟨t, .inl rfl, rfl⟩)
    | busAndEngine t =>
      simp only [perform, serveWithEngine] at h
      split at h
      · exact .inr (.inr (.inl ⟨t, rfl, hb.1 ‹_›, h⟩))
      · cases h; exact .inr (.inl ⟨t, .inr ⟨rfl, fun hx => ‹¬ _› (hb.2 hx)⟩, rfl⟩)
    | host => cases h; exact .inr (.inr (.inr (.inl ⟨rfl, rfl⟩)))
    | engine => exact .inl ⟨.inr rfl, h⟩
    | answer a => cases h; exact .inr (.inr (.inr (.inr (.inl ⟨a, rfl, rfl⟩))))
    | staleAnswer a => cases h; exact .inr (.inr (.inr (.inr (.inr (.inl ⟨⟨a, rfl⟩, rfl⟩)))))
    | assertReset => cases h; exact .inr (.inr (.inr (.inr (.inr (.inr (.inl ⟨rfl, rfl⟩))))))
    | releaseReset => cases h; exact .inr (.inr (.inr (.inr (.inr (.inr (.inr ⟨rfl, rfl⟩))))))

/-- An engine's turn: the last step of a script that has run out, and the event `.engine`. -/
theorem perform_engine (s : State) : perform .engine s = engineStep s := rfl

end Sys2Proof.Machine
end

