-- ==== Sys2Proof/Tests/Slice0.lean ====
section
/-! SUPPORT. Smoke tests of the checks, decode tests, tests of single steps against the vectors of
spec/95_test_vectors.md, and a witness for the hypotheses of every statement that has some. -/

namespace Sys2Proof.Tests

open Sys2Proof.Machine Sys2Proof.Statements

/-- The next state of an outcome. -/
def nextOf : Host.Outcome State Fault Refusal → Option State
  | .next s => some s
  | .fault _ => none
  | .refused _ => none

/-- `L` limbs, operands A, B, N, idle. -/
def idleAt (limbs a b n : Nat) : State :=
  { State.atReset { limbs := limbs, base := 0x40000 } with
    big := { a := a, b := b, n := n, r0 := 0, r1 := 0, r2 := 0 } }

/-- The same with a command just accepted. -/
def busyAt (i : Instr) (limbs a b n : Nat) : State :=
  { idleAt limbs a b n with
    cmd := encode i, engine := { phase := .busy, request := none, answer := none, drawn := 0 } }

/-- An MRPP on `n` whose round `r` has been answered with `a`. -/
def answeredAt (n a r : Nat) : State :=
  { busyAt .mrpp 1 0 0 n with
    engine := { phase := .busy, request := none, answer := some a, drawn := r } }

/-- An MRPP on `n` waiting for an answer after `r` rounds. -/
def waitingAt (n r : Nat) : State :=
  { busyAt .mrpp 1 0 0 n with
    engine :=
      { phase := .busy, request := some { lo := 2, hi := n - 1 }, answer := none, drawn := r } }

/-! ### Every check refuses an ill-formed term -/

theorem test_params_wf : Params.wf { limbs := 1, base := 0x20000 } = true ∧
    Params.wf { limbs := 1024, base := 0 } = true := by decide
theorem test_params_no_limb_refused : Params.wf { limbs := 0, base := 0 } = false := by decide
theorem test_params_1025_limbs_refused : Params.wf { limbs := 1025, base := 0 } = false := by decide
theorem test_params_unaligned_base_refused : Params.wf { limbs := 1, base := 0x8000 } = false := by
  decide
theorem test_wr_unaligned_refused : (HostStmt.wr 0x1002 1).wf = false := by decide
theorem test_rd_outside_space_refused : (HostStmt.rd 0 0x10000).wf = false := by decide
theorem test_wrh_unaligned_refused : (HostStmt.wrh 0x1001 3).wf = false := by decide
theorem test_undeclared_label_refused : programWf [.jmp 1, .halt] = false := by decide
theorem test_label_twice_refused : programWf [.label 1, .label 1, .jmp 1] = false := by decide
theorem test_bad_statement_in_program_refused : programWf [.wr 0x15 1, .halt] = false := by decide
theorem test_run_is_well_formed : programWf (runCmd .mrpp 9 ++ chkerr 9 ++ clrint ++ [.halt]) = true := by
  decide

/-! ### Decoding: words written out from 30_encoding.md R111 and R112 -/

theorem test_decode_modexp : decodeCmd 0b00000000000000000000000000000001#32 = .ok .modexp := by decide
theorem test_decode_xgcd : decodeCmd 0b00000000000000000000000000000010#32 = .ok .xgcd := by decide
theorem test_decode_modinv : decodeCmd 0b00000000000000000000000000000011#32 = .ok .modinv := by decide
theorem test_decode_mrw : decodeCmd 0b00000000000000000000000000000100#32 = .ok .mrw := by decide
theorem test_decode_mrpp : decodeCmd 0b00000000000000000000000000000101#32 = .ok .mrpp := by decide
/-- Vectors ER1, ER2, ER3. -/
theorem test_decode_illegal_op : decodeCmd 0x0#32 = .error .illegalOp ∧
    decodeCmd 0x6#32 = .error .illegalOp ∧ decodeCmd 0xF#32 = .error .illegalOp := by decide
/-- Vectors ER4, ER5. -/
theorem test_decode_reserved : decodeCmd 0x11#32 = .error .reservedBits ∧
    decodeCmd 0x80000003#32 = .error .reservedBits := by decide
theorem test_decode_bytes : decodeBytes [0x03#8, 0x00#8, 0x00#8, 0x00#8, 0xAA#8] =
    .ok (.modinv, [0xAA#8]) ∧ decodeBytes [0x01#8, 0x00#8] = .error .truncated := by decide
theorem test_decode_table_word : decodeTableWord 32 0x5 = some .mrpp ∧
    decodeTableWord 32 0x15 = none ∧ decodeTableWord 64 0x100000001 = none := by decide
theorem test_assemble : assemble "MRW" = some .mrw ∧ assemble "mrw" = none ∧
    sourceFunction "is_probably_prime" = some .mrpp := by decide

/-! ### Commands, at most two each (95_test_vectors.md section 2) -/

/-- ME1. -/
theorem test_modexp_497 :
    (nextOf (exec .modexp (busyAt .modexp 1 4 13 497))).map (fun t => (t.big.r0, statusWord t)) =
      some (445, 0x00000000#32) := by decide
/-- ME24: two limbs. -/
theorem test_modexp_two_limbs :
    (nextOf (exec .modexp (busyAt .modexp 2 (2 ^ 32 + 5) 2 (2 ^ 64 - 59)))).map
      (fun t => (memRead t 0x4000, memRead t 0x4004)) = some (0x54#32, 0x0A#32) := by decide
/-- XG1, LF1. -/
theorem test_xgcd_240_46 :
    (nextOf (exec .xgcd (busyAt .xgcd 1 240 46 0))).map
      (fun t => (t.big.r0, t.big.r1, t.big.r2, statusWord t)) =
      some (2, 9, 47, 0x00000018#32) := by decide
/-- XG22: close to the coefficient bound. -/
theorem test_xgcd_near_bound :
    (nextOf (exec .xgcd (busyAt .xgcd 1 4294967291 4294967295 0))).map
      (fun t => (t.big.r1, t.big.r2, statusWord t)) =
      some (1073741824, 1073741823, 0x00000010#32) := by decide
/-- MI2: a negative coefficient reduced. -/
theorem test_modinv_reduces :
    (nextOf (exec .modinv (busyAt .modinv 1 17 0 3120))).map (fun t => (t.big.r0, statusWord t)) =
      some (2753, 0x00000000#32) := by decide
/-- ER9: NONCOPRIME writes NCOP. -/
theorem test_modinv_noncoprime :
    (nextOf (exec .modinv (busyAt .modinv 1 6 0 9))).map (fun t => (t.big.r0, statusWord t)) =
      some (0, 0x0000030A#32) := by decide
/-- MR1: the value after the last squaring is not tested. -/
theorem test_mrw_561_2 :
    (nextOf (exec .mrw (busyAt .mrw 1 2 0 561))).map statusWord = some 0x00000004#32 := by decide
/-- MR8: `n - 1` at the third square. -/
theorem test_mrw_7921_184 :
    (nextOf (exec .mrw (busyAt .mrw 1 184 0 7921))).map statusWord = some 0x00000000#32 := by decide
/-- MP14: the last round is composite. -/
theorem test_mrpp_last_round_composite :
    (nextOf (exec .mrpp (answeredAt 7921 2 20))).map statusWord = some 0x00140004#32 := by decide
/-- ER11. -/
theorem test_mrpp_answer_out_of_range :
    (nextOf (exec .mrpp (answeredAt 9 1 1))).map statusWord = some 0x00000502#32 := by decide
/-- The trace of ME1 and the trace of XG1. -/
theorem test_traces :
    modexpAfter 4 13 497 3 = { r := 30, b := 429, e := 1 } ∧
    xgcdAfter 240 46 4 = { u := 5, g := 4, x := -9, y := 2 } := by decide

/-! ### The bus, the other agents and the step -/

/-- BU1, BU4, BU17, BU20. -/
theorem test_control_registers :
    memRead State.reset 0x000 = 0x52530100#32 ∧ memRead (idleAt 1024 0 0 0) 0x004 = 0x00140400#32 ∧
    memRead (memWrite 0x008 0xFFFFFFFD#32 State.reset) 0x008 = 0x00000001#32 ∧
    memRead (memWrite 0x010 2#32
      { State.reset with intStatus := { doneP := true, ovr := true } }) 0x010 = 1#32 := by decide
/-- BU10, BU11, BU12. -/
theorem test_limb_writes :
    memRead (memWrite 0x1004 7#32 State.reset) 0x1004 = 0#32 ∧
    (memWrite 0x1004 7#32 (idleAt 2 3 0 0)).big.a = 7 * 2 ^ 32 + 3 ∧
    memWrite 0x4000 5#32 State.reset = State.reset := by decide
/-- BU14, BU15: a bus error changes the response alone. -/
theorem test_bus_error :
    serve { op := .write 1, bytes := 2, addr := 0x1000 } State.reset =
      { State.reset with response := .writeError 0x1000 } ∧
    serve { op := .write 1, bytes := 4, addr := 0x1002 } State.reset =
      { State.reset with response := .writeError 0x1002 } := by decide
/-- An address outside the 64 KiB of `BASE` is not the block's. -/
theorem test_elsewhere :
    serve (readAt (idleAt 1 0 0 0) 0x10000) (idleAt 1 0 0 0) =
      { idleAt 1 0 0 0 with response := .elsewhere } := by decide
/-- LF7: an answer to a withdrawn request is discarded. -/
theorem test_answer_after_soft_reset :
    deliver 5 (memWrite 0x008 2#32 (waitingAt 101 3)) = resetBlock (waitingAt 101 3) := by decide
/-- The first step after a command is presented runs it (ER1, and MP1 on the reset operands). -/
theorem test_presented_command_runs :
    (nextOf (step (State.reset.withFetchWord 32 0))).map statusWord = some 0x00000102#32 ∧
    (nextOf (step (State.reset.withFetchWord 32 5))).map statusWord = some 0x00000004#32 := by decide
/-- `RD`, then `BNZ` on what it read (R116). -/
theorem test_host_reads_status :
    (hostStmt (.rd 7 0x00C) (busyAt .mrw 1 0 0 0)).host.scratch[7] = 1#32 ∧
    (hostStmt (.andi 2 2 6) { State.reset with
      host := { HostAgent.start [] with scratch := #v[0, 0, 3, 0, 0, 0, 0, 0] } }).host.scratch[2] =
        2#32 := by decide

/-! ### Witnesses: the hypotheses of each statement hold together, clause by clause -/

/-- A state that meets the invariant with a request outstanding, the last that can be. -/
theorem waiting_inv : (waitingAt 101 19).Inv where
  params := by decide
  regs := by decide
  err := by decide
  busyErr := by decide
  idle := by decide
  request := by decide
  answer := by decide
  none_drawn := by decide
  wcnt := by decide
  held := by decide

/-- A state that meets the invariant, idle, with host lines to run. -/
theorem idle_inv (p : List HostStmt) (sc : List Event) :
    State.Inv { idleAt 1 0 0 0 with host := HostAgent.start p, script := sc } where
  params := by simp only [idleAt]; decide
  regs := by simp only [idleAt]; decide
  err := by simp [State.errMatchesCode, idleAt, State.atReset]
  busyErr := by simp [State.busyWithoutError, idleAt, State.atReset]
  idle := by simp [State.idleAtRest, idleAt, State.atReset]
  request := by simp [State.requestIsMrpp, idleAt, State.atReset, Engine.atRest]
  answer := by simp [State.answerIsMrpp, idleAt, State.atReset, Engine.atRest]
  none_drawn := by simp [State.freshHasDrawnNothing, idleAt, State.atReset, Engine.atRest]
  wcnt := by simp [State.wcntInRange, idleAt, State.atReset]
  held := by simp [State.heldInReset, idleAt, State.atReset]

theorem witness_DecodeBytesAgreesWithEncode : Instr.wf .mrpp = true := by decide
theorem witness_EngineTurnRunsDecodedCommand :
    let s := busyAt .mrw 1 2 0 561
    decodeCmd s.cmd = .ok .mrw ∧ Instr.wf .mrw = true ∧ s.engine.phase = .busy ∧
    s.engine.request = none ∧ s.script = [] ∧
    { s with script := [.engine, .host] }.script = .engine :: [.host] := by decide
theorem witness_StepPerformsOneEvent :
    ∀ e ∈ ([.bus (readAt State.reset 0), .host, .answer 2, .assertReset, .releaseReset] : List Event),
      ({ State.reset with script := [e] } : State).script = e :: [] := by decide
/-- The last byte below the space, the first above it, in a state of a scheduled transaction. -/
theorem witness_StepPerformsOneEvent_outside :
    let s : State := State.atReset { limbs := 1, base := 0x10000 }
    s.resetLine = false ∧ (0xFFFF < s.params.base ∨ s.params.base + 0x10000 ≤ 0xFFFF) ∧
    (0x20000 < s.params.base ∨ s.params.base + 0x10000 ≤ 0x20000) ∧
    { s with script := [.bus { op := .write 1#32, bytes := 8, addr := 0x20000 }] }.script =
      .bus { op := .write 1#32, bytes := 8, addr := 0x20000 } :: [] := by decide
theorem witness_ResetMatchesTable : Params.wf { limbs := 1024, base := 0x10000 } = true ∧
    0 < 1024 ∧ (0x2#32).getLsbD 1 = true := by decide
theorem witness_StepKeepsInvariant :
    ∃ s s' : State, s.Inv ∧ step s = .next s' := ⟨_, _, waiting_inv, rfl⟩
theorem witness_StepKeepsZeroUnsigned :
    ∃ s s' : State, s.Inv ∧ s.zeroHasNoSign ∧ step s = .next s' :=
  ⟨_, _, waiting_inv, by decide, rfl⟩
theorem witness_CmdWriteAcceptsOrOverruns :
    (idleAt 1 0 0 0).engine.phase = .idle ∧ (idleAt 1 0 0 0).resetLine = false ∧
    (waitingAt 101 0).engine.phase = .busy ∧ (waitingAt 101 0).resetLine = false := by decide
theorem witness_IllegalWordCompletesWithIllegal :
    ((busyAt .mrpp 1 0 0 5).cmd = encode .mrpp ∧ (busyAt .mrpp 1 0 0 5).engine.phase = .busy ∧
      (busyAt .mrpp 1 0 0 5).engine.request = none) ∧
    ((0x0#32).toNat = 0 ∧ 5 < (0x6#32).toNat) ∧
    (let s := { busyAt .mrw 1 0 0 0 with cmd := 0x6#32 }
     s.cmd = 0x6#32 ∧ s.engine.phase = .busy ∧ s.engine.request = none ∧ s.script = []) ∧
    (idleAt 1 0 0 0).engine.phase = .idle ∧ (idleAt 1 0 0 0).resetLine = false := by decide
theorem witness_ResultsHoldWhileBusy :
    (nextOf (step (busyAt .mrpp 1 0 0 101))).map (fun t => t.engine.phase) = some .busy := by decide
theorem witness_ResultRegistersChangeOnlyAtCommit :
    (nextOf (step (busyAt .modexp 1 4 13 497))).isSome = true ∧
    (0x4000 ≤ 0x6FFC ∧ 0x6FFC < 0x7000 ∧ 0x6FFC % 4 = 0 ∧ (idleAt 1 0 0 0).resetLine = false) := by
  decide
/-- The three ways in which a result changes: a commit, NONCOPRIME, a soft reset. -/
theorem witness_ResultRegistersChangeOnlyAtCommit_ways :
    (nextOf (step (busyAt .modexp 1 4 13 497))).map (fun t => t.big.r0) = some 445 ∧
    (nextOf (step (busyAt .modinv 1 6 0 9))).map (fun t => (t.status.ncop, t.status.errcode)) =
      some (true, .nonCoprime) ∧
    (busyAt .modinv 1 6 0 9).cmd = encode .modinv := by decide
theorem witness_OperandsStableWhileBusy_write :
    let s := { idleAt 1 0 0 0 with script := [.bus (writeAt (idleAt 1 0 0 0) 0x1000 7#32)] }
    servesWrite s 0x1000 7#32 ∧ (nextOf (step s)).map (fun t => t.big.a) = some 7 := by
  refine ⟨⟨rfl, by decide, by decide, .inl rfl⟩, by decide⟩
theorem witness_OperandsStableWhileBusy :
    let s := waitingAt 101 0
    s.params.wf = true ∧ s.engine.phase = .busy ∧ s.resetLine = false ∧ hostWritable .n = true ∧
    0 < s.params.limbs ∧ s.params.limbs ≤ 1023 ∧ (nextOf (step s)).isSome = true ∧
    (nextOf (exec .xgcd s)).isSome = true := by decide
theorem witness_CommandsWriteOnlyTheirRow :
    ∀ i : Instr, ∃ t, exec i (idleAt 1 3 7 7) = .next t := by
  intro i; cases i <;> exact ⟨_, rfl⟩
/-- A command on a state without an error can raise one. -/
theorem witness_CommandsWriteOnlyTheirRow_error :
    (idleAt 1 6 0 9).status.err = false ∧ (busyAt .mrw 1 2 0 561).engine.phase = .busy ∧
    (nextOf (exec .mrw (busyAt .mrw 1 2 0 561))).map (fun t => t.engine.phase) = some .idle ∧
    (nextOf (exec .mrpp (busyAt .mrpp 1 0 0 101))).map (fun t => t.engine.phase) = some .busy ∧
    (nextOf (exec .modinv (idleAt 1 6 0 9))).map (fun t => (t.status.err, t.status.errcode)) =
      some (true, .nonCoprime) := by decide
/-- Two states that give each command the same operands and differ elsewhere: R0, R1, R2, a flag, and B or
A where the row has not got it. -/
theorem witness_CommandsReadOnlyTheirOperands :
    (∀ i ∈ ([.modexp, .xgcd] : List Instr), sameInputs i (idleAt 1 3 4 7)
      { idleAt 1 3 4 7 with
        big := { a := 3, b := 4, n := 7, r0 := 1, r1 := 2, r2 := 3 }
        status := { (idleAt 1 3 4 7).status with comp := true, ncop := true } }) ∧
    (∀ i ∈ ([.modinv, .mrw] : List Instr), sameInputs i (idleAt 1 3 4 7) (idleAt 1 3 5 7)) ∧
    sameInputs .mrpp (idleAt 1 3 4 7) (idleAt 1 9 5 7) := by
  simp [sameInputs, idleAt, State.atReset]
theorem witness_ModexpCoreIsPowerModN : 0 < 1 ∧ 0 < 13 ∧ (modexpAfter 4 13 497 4).e = 0 := by decide
theorem witness_ModexpStartsAtOneModN : 0 < 1 ∧ 2 ≤ 2 := by decide
theorem witness_ModexpWritesPowerModN :
    (idleAt 1 4 13 0).big.wf (idleAt 1 4 13 0).params ∧ (idleAt 1 4 13 0).big.n = 0 ∧
    (idleAt 1 0 0 1).big.wf (idleAt 1 0 0 1).params ∧ (idleAt 1 0 0 1).big.n ≠ 0 := by decide
/-- Boundary values of each corner: `a = 0`, `a = 1`, `g = 0`, `g` a multiple of `n`, all ones. -/
theorem witness_ModexpCornerCases :
    (∀ s ∈ [idleAt 1 5 0 1, idleAt 1 10 1 7, idleAt 1 0 1 13, idleAt 1 14 1 7,
        idleAt 1 4294967295 4294967295 4294967295],
      s.big.wf s.params ∧ s.big.n ≠ 0) ∧
    (let s := idleAt 1 4294967295 4294967295 4294967295
     s.big.n = s.params.bound - 1 ∧ s.big.a = s.big.n ∧ s.big.b = s.big.n) := by decide
/-- The T6 key: `p = 131`, `q = 137`, `e = 3`, `d = 2947`, `m = 65`. -/
theorem witness_RsaRoundTrip :
    Nat.Prime 131 ∧ Nat.Prime 137 ∧ 131 ≠ 137 ∧
    3 * 2947 % Nat.lcm (131 - 1) (137 - 1) = 1 % Nat.lcm (131 - 1) (137 - 1) ∧ 65 < 131 * 137 ∧
    0 < 3 * 2947 := by
  refine ⟨by norm_num, by norm_num, by decide, by decide, by decide, by decide⟩
theorem witness_XgcdCores : 0 < 1 ∧ (xgcdAfter 240 46 0).y ≠ 0 := by decide
theorem witness_XgcdCoefficientsFit :
    let p : Params := { limbs := 1, base := 0 }
    p.wf = true ∧ 4294967291 < p.bound ∧ 4294967295 < p.bound ∧ 0 < 4294967295 := by decide
theorem witness_XgcdCommand :
    let s := idleAt 1 0 4294967295 0
    let t := idleAt 1 5 0 0
    s.params.wf = true ∧ s.big.wf s.params ∧ s.big.b ≠ 0 ∧
    t.params.wf = true ∧ t.big.wf t.params ∧ t.big.b = 0 := by decide
theorem witness_XgcdCornerCases :
    0 < 1 ∧ 1 ≤ 1 ∧ 2 ≤ 2 ∧ 46 < 240 ∧ (46 : Nat) ≠ 240 ∧ (idleAt 1 0 0 0).big.b = 0 ∧
    (idleAt 1 0 1 0).big.b ≠ 0 ∧ (xgcdCore 0 1).u = 0 ∧ (xgcdCore 5 10).v = 0 := by decide
theorem witness_ModinvWritesReducedCoefficient :
    (∀ s ∈ [idleAt 1 7 0 0, idleAt 1 6 0 9, idleAt 1 0 0 1], s.big.wf s.params) ∧
    (idleAt 1 7 0 0).big.n = 0 ∧ Nat.gcd (idleAt 1 6 0 9).big.a (idleAt 1 6 0 9).big.n ≠ 1 ∧
    Nat.gcd (idleAt 1 0 0 1).big.a (idleAt 1 0 0 1).big.n = 1 := by decide
theorem witness_ModinvGivesTheInverse :
    (idleAt 1 0 0 2).big.wf (idleAt 1 0 0 2).params ∧ (idleAt 1 0 0 2).big.a = 0 ∧
    2 ≤ (idleAt 1 0 0 2).big.n ∧ (idleAt 1 5 0 1).big.n = 1 ∧
    Nat.gcd (idleAt 1 5 0 1).big.a (idleAt 1 5 0 1).big.n = 1 := by decide
theorem witness_DecompIsUnique : 1 ≤ 1 ∧ 560 = 2 ^ 4 * 35 ∧ 35 % 2 = 1 := by decide
theorem witness_MrWitnessIsTheStrongTest :
    (0 ≠ 1 ∧ 0 % 2 = 0) ∧ (561 % 2 = 1 ∧ 1 < Nat.gcd 3 561 ∧ Nat.gcd 3 561 < 561) ∧
    (3 % 2 = 1 ∧ ¬ (1 < Nat.gcd 2 3 ∧ Nat.gcd 2 3 < 3) ∧ 3 - 1 = 2 ^ 1 * 1 ∧ 1 % 2 = 1) := by decide
theorem witness_PrimesHaveNoWitness : Nat.Prime 3 ∧ 3 ≠ 2 ∧ ¬ 3 ∣ 2 := by
  refine ⟨by norm_num, by decide, by decide⟩
theorem witness_MrwWritesVerdict :
    (idleAt 1 0 0 1).big.n = 1 ∧ (idleAt 1 0 0 0).big.n ≠ 1 := by decide
theorem witness_MillerRabinCornerCases :
    (idleAt 1 5 0 0).big.n % 2 = 0 ∧ (idleAt 1 5 0 1).big.n = 1 ∧
    (3 ≤ 3 ∧ 3 % 2 = 1 ∧ 3 % 3 = 0 ∧ 4 % 3 = 1 ∧ 5 % 3 = 3 - 1) ∧
    (∀ a ∈ [1, 4], let s := answeredAt 5 a 1
      5 ≤ s.big.n ∧ s.big.n % 2 = 1 ∧ s.engine.answer = some a ∧ (a < 2 ∨ s.big.n - 2 < a)) := by
  decide
theorem witness_MrppOnSmallAndEvenCandidates :
    (idleAt 1 0 0 0).big.n = 0 ∧ (idleAt 1 0 0 2).big.n = 2 ∧ 4 ≤ (idleAt 1 0 0 4).big.n ∧
    (idleAt 1 0 0 4).big.n % 2 = 0 ∧ 5 ≤ (busyAt .mrpp 1 0 0 5).big.n ∧
    (busyAt .mrpp 1 0 0 5).big.n % 2 = 1 ∧ freshlyAccepted (busyAt .mrpp 1 0 0 5) := by
  refine ⟨rfl, rfl, by decide, by decide, by decide, by decide, rfl⟩
/-- One answer for each clause of the round: out of range on both sides, composite, passing before the
last round, passing in it. -/
theorem witness_MrppRound :
    (∀ q ∈ [(9, 1, 1), (9, 8, 1), (9, 7, 1), (101, 2, 19), (101, 99, 20)],
      let s := answeredAt q.1 q.2.1 q.2.2
      5 ≤ s.big.n ∧ s.big.n % 2 = 1 ∧ 1 ≤ q.2.2 ∧ q.2.2 ≤ 20 ∧
      s.engine = { phase := .busy, request := none, answer := some q.2.1, drawn := q.2.2 }) ∧
    mrWitness 9 7 = true ∧ mrWitness 101 2 = false ∧ mrWitness 101 99 = false := by decide
/-- 20 passing answers, 19 then a composite one, and an answer out of range (vectors MP18, MP19, MP24). -/
theorem witness_MrppTestsWitnessesInOrder :
    let s := busyAt .mrpp 1 0 0 25
    s.cmd = 0x00000005#32 ∧ freshlyAccepted s ∧ 5 ≤ s.big.n ∧ s.big.n % 2 = 1 ∧
    (∀ a ∈ List.replicate 20 7, 2 ≤ a ∧ a ≤ s.big.n - 2 ∧ mrWitness s.big.n a = false) ∧
    (List.replicate 20 7).length = 20 ∧ (List.replicate 19 7).length < 20 ∧
    { s with script := drawScript (List.replicate 20 7) ++ [Event.host] }.script =
      drawScript (List.replicate 20 7) ++ [Event.host] ∧
    { s with script := drawScript (List.replicate 19 7 ++ [2]) ++ [] }.script =
      drawScript (List.replicate 19 7 ++ [2]) ++ [] ∧
    mrWitness s.big.n 2 = true ∧ 2 ≤ s.big.n - 2 ∧ s.big.n - 2 < 24 := by
  refine ⟨by decide, rfl, by decide, by decide, by decide, by decide, by decide, rfl, rfl, by decide,
    by decide, by decide⟩
theorem witness_MrppAcceptsEveryPrime :
    let s := { busyAt .mrpp 1 0 0 5 with script := drawScript (List.replicate 20 3) ++ [.host] }
    s.cmd = 0x00000005#32 ∧ freshlyAccepted s ∧ s.big.n.Prime ∧ 5 ≤ s.big.n ∧
    (List.replicate 20 3).length = 20 ∧
    (∀ a ∈ List.replicate 20 3, 2 ≤ a ∧ a ≤ s.big.n - 2) ∧
    s.script = drawScript (List.replicate 20 3) ++ [.host] := by
  refine ⟨by decide, rfl, ?_, by decide, by decide, by decide, rfl⟩
  change Nat.Prime 5
  norm_num
theorem witness_EveryCommandCompletes :
    freshlyAccepted (busyAt .mrpp 1 0 0 101) ∧ (List.replicate 20 2).length = 20 ∧
    Instr.modexp ≠ .mrpp ∧
    (let s := waitingAt 101 0
     s.engine.phase = .busy ∧ s.engine.request = some { lo := 2, hi := 100 } ∧
     (nextOf (step s)).isSome = true ∧ ∀ a rest, s.script ≠ .answer a :: rest) :=
  ⟨rfl, by decide, by decide, by decide, by decide, by decide, fun _ _ h => nomatch h⟩
theorem witness_AnswersGoToTheOutstandingRequest :
    (waitingAt 101 0).engine.request = some { lo := 2, hi := 100 } ∧
    (idleAt 1 0 0 0).engine.request = none := by decide
theorem witness_RegisterIsSumOfLimbs :
    (idleAt 2 (2 ^ 32 + 5) 0 0).params.wf = true ∧
    (idleAt 2 (2 ^ 32 + 5) 0 0).big.wf (idleAt 2 (2 ^ 32 + 5) 0 0).params := by decide
theorem witness_LimbStatements :
    let s := idleAt 2 (2 ^ 64 - 1) 0 0
    s.params.wf = true ∧ s.big.wf s.params ∧ 1 < s.params.limbs ∧ hostWritable .a = true ∧
    hostWritable .r0 = false ∧ (waitingAt 101 0).engine.phase = .busy ∧
    s.engine.phase = .idle ∧ s.params.limbs ≤ 2 ∧ s.params.limbs ≤ 1023 ∧ s.resetLine = false ∧
    0x1000 % 4 = 0 ∧ 0x1000 ≠ windowBase .a + 4 * 1 := by decide
theorem witness_ReservedAndReadOnlyIgnoreWrites :
    (idleAt 1 0 0 0).resetLine = false ∧ 0x0018 % 4 = 0 ∧ 0x0FFC ≤ 0x0FFF ∧ 0xFFFC ≤ 0xFFFF ∧
    0x4000 % 4 = 0 := by decide
theorem witness_OnlyAlignedWordsAreServed :
    (idleAt 1 0 0 0).resetLine = false ∧ 0xFFFF < 0x10000 ∧ 0xFFFF % 4 ≠ 0 ∧ (8 ≠ 4) ∧
    0xFFFC % 4 = 0 := by decide
theorem witness_ReadsHaveNoSideEffects :
    (readAt (idleAt 1 0 0 0) 0).op = .read ∧
    (0x00C ≠ 0x008 ∧ 0x00C ≠ 0x010 ∧ 0x00C ≠ 0x014 ∧ 0x00C % 4 = 0) ∧
    ∀ r i, hostWritable r = true → i < (idleAt 1 0 0 0).params.limbs → 0x00C ≠ windowBase r + 4 * i := by
  refine ⟨rfl, by decide, fun r i _ _ => ?_⟩
  unfold windowBase
  omega
theorem witness_StatusWordFields :
    (idleAt 1024 0 0 0).params.wf = true ∧
    (∀ c ∈ ([.none, .illegal, .divZero, .nonCoprime, .range, .rng] : List ErrCode),
      let s := { idleAt 1024 0 0 0 with status := { (idleAt 1024 0 0 0).status with errcode := c } }
      s.params.wf = true ∧ s.status.errcode = c) := by decide
theorem witness_CtrlWrites :
    (0x3#32).getLsbD 1 = true ∧ (0x1#32).getLsbD 1 = false ∧ (0x1#32).getLsbD 0 = true := by decide
theorem witness_IntStatusWriteOneToClear :
    let s := busyAt .modexp 1 4 13 497
    decodeCmd s.cmd = .ok .modexp ∧ Instr.modexp ≠ .mrpp ∧ s.engine.phase = .busy ∧
    s.engine.request = none ∧ s.resetLine = false ∧ (0x1#32).getLsbD 0 = true := by decide
/-- A W1C in the same step as an ILLEGAL completion and as the MRPP turn that completes. -/
theorem witness_IntStatusWriteOneToClear_sameStep :
    (∀ u ∈ [{ busyAt .mrpp 1 0 0 4 with cmd := 0x6#32 }, busyAt .mrpp 1 0 0 4],
      let s := { u with script := [.busAndEngine (writeAt u 0x010 1#32)] }
      s.engine.phase = .busy ∧ s.script = .busAndEngine (writeAt s 0x010 1#32) :: [] ∧
      (nextOf (step s)).map (fun t => t.engine.phase) = some .idle) := by decide
/-- DONE_P falls by a host write of 1, OVR by another; ERR and ERRCODE change at an error and at the next
acceptance. -/
theorem witness_FlagsHoldUntilTheirEvents :
    (let u := { idleAt 1 0 0 0 with
       intStatus := { doneP := true, ovr := true }
       status := { (idleAt 1 0 0 0).status with err := true, errcode := .range } }
     (nextOf (step { u with script := [.bus (writeAt u 0x010 1#32)] })).map (fun t => t.intStatus) =
       some { doneP := false, ovr := true } ∧
     (nextOf (step { u with script := [.bus (writeAt u 0x010 2#32)] })).map (fun t => t.intStatus) =
       some { doneP := true, ovr := false } ∧
     (nextOf (step { u with script := [.bus (writeAt u 0x014 4#32)] })).map (fun t => t.status.err) =
       some false ∧
     (nextOf (step { u with script := [.bus (writeAt u 0x008 1#32)] })).map (fun t => t.ctrlIe) =
       some true) ∧
    (let u := waitingAt 101 0
     (nextOf (step { u with script := [.bus (writeAt u 0x1000 1#32)] })).map
       (fun t => t.intStatus.ovr) = some true) ∧
    (nextOf (step (busyAt .mrw 1 0 0 1))).map (fun t => t.status.errcode) = some .range := by decide
/-- Both ways in which `irq` rises: a completion with IE = 1, and IE set while DONE_P = 1. -/
theorem witness_IrqIsEnabledCompletion :
    (let s := { busyAt .modexp 1 4 13 497 with ctrlIe := true }
     irq s = false ∧ (nextOf (step s)).map irq = some true) ∧
    (let s := { idleAt 1 0 0 0 with intStatus := { doneP := true, ovr := false } }
     irq s = false ∧ irq (memWrite 0x008 1#32 s) = true) := by decide
theorem witness_SoftResetAbortsCommand :
    (0x2#32).getLsbD 1 = true ∧ (waitingAt 101 3).resetLine = false := by decide
theorem witness_HardwareResetHoldsTheBlock :
    let s := assertReset (waitingAt 101 3)
    s.resetLine = true ∧ s.blockAtReset ∧ (nextOf (step s)).isSome = true := by decide
theorem witness_IdleBlockKeepsItsState :
    (idleAt 1 4 5 6).engine = Engine.atRest ∧ (idleAt 1 4 5 6).script = [] := by decide
theorem witness_HostInternalStatements :
    findLabel [.halt, .label 4] 4 = some 1 ∧ findLabel [.halt, .label 4] 5 = none ∧
    scratchOf (idleAt 1 0 0 0) 7 = 0 ∧ (idleAt 1 0 0 0).host.halted = false ∧
    (idleAt 1 0 0 0).host.prog[(idleAt 1 0 0 0).host.pos]? = none ∧
    (HostAgent.start [.halt]).prog[(HostAgent.start [.halt]).pos]? = some .halt ∧
    [HostStmt.halt, .label 4][1]? = some (.label 4) ∧ HostStmt.label 5 ∉ [HostStmt.halt, .label 4] ∧
    scratchOf (setScratch 7 1 (idleAt 1 0 0 0)) 7 ≠ 0 ∧ (1 : Scratch) ≠ 7 ∧
    (hostStmt .halt (idleAt 1 0 0 0)).host.halted = true := by decide
theorem witness_HostAccessStatements :
    0xFFFC < 0x10000 ∧ 0xFFFC % 4 = 0 ∧ (idleAt 1 0 0 0).resetLine = false ∧ (0 : Scratch) ≠ 7 := by
  decide
theorem witness_LdbigPlacesValue :
    let s := { idleAt 2 0 0 0 with
      host := HostAgent.start (ldbig 2 .n (2 ^ 64 - 1)), script := [.host, .host] }
    s.params.wf = true ∧ s.big.wf s.params ∧ hostWritable .n = true ∧ 2 ^ 64 - 1 < s.params.bound ∧
    s.engine.phase = .idle ∧ s.resetLine = false ∧
    hostAt s [] (ldbig s.params.limbs .n (2 ^ 64 - 1)) [] ∧
    s.script = List.replicate s.params.limbs .host ++ [] := by
  refine ⟨by decide, by decide, by decide, by decide, by decide, by decide, ⟨by decide, by decide,
    by decide⟩, by decide⟩
/-- The poll loop stands at line 1, after a write; once idle and once busy. -/
theorem witness_PollEndsExactlyWhenIdle :
    let h : HostAgent := { HostAgent.start ([.halt] ++ poll 3 ++ [.halt]) with pos := 1 }
    let s := { idleAt 1 0 0 0 with host := h, script := List.replicate 4 .host }
    let t := { waitingAt 101 0 with host := h, script := List.replicate 4 .host }
    hostAt s [.halt] (poll 3) [.halt] ∧ hostAt t [.halt] (poll 3) [.halt] ∧
    (∀ st ∈ ([.halt] : List HostStmt), st ≠ .label 3) ∧ s.resetLine = false ∧ t.resetLine = false ∧
    s.script = List.replicate 4 .host ++ [] ∧ s.engine.phase = .idle ∧ t.engine.phase = .busy := by
  refine ⟨⟨rfl, rfl, rfl⟩, ⟨rfl, rfl, rfl⟩, by decide, rfl, rfl, rfl, rfl, rfl⟩
theorem witness_HostDrivenModexp :
    let code := ldbig 1 .a 4 ++ ldbig 1 .b 13 ++ ldbig 1 .n 497 ++ issue .modexp
    let s : State := { idleAt 1 0 0 0 with
      host := HostAgent.start code, script := List.replicate 4 .host ++ [.engine] }
    s.Inv ∧ s.engine.phase = .idle ∧ s.resetLine = false ∧ 4 < s.params.bound ∧
    13 < s.params.bound ∧ 497 < s.params.bound ∧ 0 < 497 ∧ hostAt s [] code [] ∧
    s.script = List.replicate (3 * s.params.limbs + 1) .host ++ [.engine] ++ [] := by
  refine ⟨idle_inv _ _, rfl, rfl, by decide, by decide, by decide, by decide, ⟨by simp [HostAgent.start],
    rfl, rfl⟩, rfl⟩

end Sys2Proof.Tests
end

section
/-! PROOF. The register map as the host reads and writes it: the control registers at reset and at a write
(10_state.md R43, R52, R56, R58, R59) and a big register as its limbs (R32). -/

namespace Sys2Proof.Machine

open Sys2Proof.Statements

/-- The number of limbs that R10 allows. -/
theorem limbs_of_wf {p : Params} (h : p.wf = true) : 1 ≤ p.limbs ∧ p.limbs ≤ 1024 := by
  simp only [Params.wf, Bool.and_eq_true, decide_eq_true_eq] at h
  exact h.1

/-! ### A value is the sum of its limbs -/

/-- The first `n` limbs of a value sum to the value modulo `2^(32*n)`. -/
theorem sum_limbOf (x n : Nat) :
    ((List.range n).map fun i => (limbOf x i).toNat * 2 ^ (32 * i)).sum = x % 2 ^ (32 * n) := by
  induction n with
  | zero => simp [Nat.mod_one]
  | succ n ih =>
    rw [List.range_succ, List.map_append, List.sum_append, ih, List.map_singleton, List.sum_singleton,
      limbOf_toNat, Nat.mul_succ, pow_add, Nat.mod_mul, Nat.mul_comm (2 ^ (32 * n))]

theorem limbOf_zero (i : Nat) : limbOf 0 i = 0 :=
  BitVec.eq_of_toNat_eq (by simp [limbOf_toNat])

/-- Settles O42: each window word is a limb, and a register below `2^W` is the sum of its `L` limbs. -/
theorem registerIsSumOfLimbs : Obligations.RegisterIsSumOfLimbs := by
  intro s r hp hwf
  have hL := (limbs_of_wf hp).2
  have hread : ∀ i ∈ List.range s.params.limbs,
      (memRead s (windowBase r + 4 * i)).toNat * 2 ^ (32 * i) =
        (limbOf (getBig r s) i).toNat * 2 ^ (32 * i) := fun i hi => by
    have hlt := List.mem_range.mp hi
    rw [memRead_window s r (by omega), if_pos hlt]
  rw [List.map_congr_left hread, sum_limbOf]
  exact (Nat.mod_eq_of_lt (getBig_lt hwf r)).symm

/-! ### The control registers -/

theorem paramWord_toNat {p : Params} (h : p.limbs ≤ 1024) :
    (paramWord p).toNat = 0x00140000 + p.limbs := by
  have hlt : p.limbs < 2 ^ 16 := by omega
  simp only [paramWord, mrRounds, BitVec.toNat_append, BitVec.toNat_ofNat, Nat.mod_eq_of_lt hlt]
  rw [← Nat.shiftLeft_add_eq_or_of_lt hlt]
  simp

theorem ctrlWord_toNat (s : State) : (ctrlWord s).toNat = if s.ctrlIe = true then 1 else 0 := by
  unfold ctrlWord
  cases s.ctrlIe <;> rfl

theorem resetBlock_blockAtReset (s : State) : (resetBlock s).blockAtReset :=
  ⟨rfl, rfl, rfl, rfl, rfl, rfl⟩

theorem assertReset_blockAtReset (s : State) : (assertReset s).blockAtReset :=
  ⟨rfl, rfl, rfl, rfl, rfl, rfl⟩

/-- A CTRL write with SRST = 1 is the soft reset (10_state.md R43, 70_reset_and_hazards.md R241). -/
theorem memWrite_ctrl_srst {v : Word} (hv : v.getLsbD 1 = true) (s : State) :
    memWrite 0x008 v s = resetBlock s := by
  rw [memWrite_ctrl, if_pos hv]

/-- Settles O49: the CTRL word, the soft reset, and the IE write. -/
theorem ctrlWrites : Obligations.CtrlWrites := by
  intro s v
  refine ⟨?_, fun hv => ?_, fun hv => ?_⟩
  · rw [memRead_ctrl, ctrlWord_toNat]
  · rw [memWrite_ctrl_srst hv]
    exact ⟨resetBlock_blockAtReset s, rfl⟩
  · rw [memWrite_ctrl, if_neg (ne_true_of_eq_false hv)]

/-- The host's aligned write out of reset is `memWrite` with the response of a write. -/
theorem serve_writeAt {s : State} {off : Nat} (v : Word) (hr : s.resetLine = false)
    (hlt : off < 0x10000) (hal : off % 4 = 0) :
    serve (writeAt s off v) s = { memWrite off v s with response := .written } :=
  serve_aligned s (.write v) hr hlt hal

/-- Settles O11: the acceptance while idle, the dropped write while busy. -/
theorem cmdWriteAcceptsOrOverruns : Obligations.CmdWriteAcceptsOrOverruns := by
  refine ⟨memRead_cmd, fun s w hr => ?_⟩
  rw [serve_writeAt w hr (by decide) (by decide), memWrite_cmd]
  refine ⟨fun hidle => ?_, fun hbusy => ?_⟩
  · rw [if_neg (by simp [busy, hidle])]
    rfl
  · rw [if_pos ((busy_iff s).mpr hbusy)]
    rfl

/-- Settles O6: the reset table read through the register map, and both resets. -/
theorem resetMatchesTable : Obligations.ResetMatchesTable := by
  intro p hp
  have hL := (limbs_of_wf hp).2
  have hwindow : ∀ r i, i < p.limbs → memRead (State.atReset p) (windowBase r + 4 * i) = 0#32 := by
    intro r i hi
    have hzero : getBig r (State.atReset p) = 0 := by cases r <;> rfl
    rw [memRead_window _ r (by omega), hzero, limbOf_zero]
    exact if_pos hi
  refine ⟨rfl, rfl, ?_, ?_, ?_, ?_, ?_, rfl, rfl, hwindow, assertReset_blockAtReset, fun u v hv => ?_⟩
  · rw [memRead_param]
    exact paramWord_toNat hL
  · rw [memRead_ctrl]
    simp [ctrlWord, flagBit, State.atReset]
  · rw [memRead_status]
    simp [statusWord, flagBit, errCodeBits, busy, State.atReset, Engine.atRest]
  · rw [memRead_intStatus]
    simp [intStatusWord, flagBit, State.atReset]
  · rw [memRead_cmd]
    rfl
  · rw [memWrite_ctrl_srst hv]
    exact resetBlock_blockAtReset u

end Sys2Proof.Machine
end

section
/-! PROOF. What a command may write (10_state.md R35): its four outcomes, its frame, and the reads that do
not see it. -/

namespace Sys2Proof.Machine

open Sys2Proof.Statements

/-! ### What a command may write -/

/-- From `s` to `t` command `i` has committed (10_state.md R61): only its row changed, no error is recorded,
the engine is at rest and DONE_P is 1. -/
def commitsRowOf (i : Instr) (s t : State) : Prop :=
  changesOnlyRowOf i s t ∧ t.status.err = s.status.err ∧ t.status.errcode = s.status.errcode ∧
  t.engine = Engine.atRest ∧ t.intStatus.doneP = true

/-- Everything a command can end in, with its row of R35: a commit, an error that writes nothing else, the
NONCOPRIME of MODINV, or the next request of MRPP. -/
theorem exec_outcomes {i : Instr} {s t : State} (h : exec i s = .next t) :
    commitsRowOf i s t ∨
    (∃ c, c ≠ .nonCoprime ∧ t = raiseCmdError c s) ∨
    (i = .modinv ∧ ∃ g, g ≠ 1 ∧ t = raiseCmdError .nonCoprime (setNcop g s)) ∨
    (i = .mrpp ∧ t = drawWitness 2 (s.big.n - 1) s) := by
  cases i with
  | modexp =>
    rcases execModexp_cases s with ⟨-, e⟩ | ⟨-, e⟩ <;> cases e.symm.trans h
    · exact .inr (.inl ⟨_, by decide, rfl⟩)
    · exact .inl ⟨by simp [changesOnlyRowOf], rfl, rfl, rfl, rfl⟩
  | xgcd =>
    rcases execXgcd_cases s with ⟨-, e⟩ | ⟨-, e⟩ <;> cases e.symm.trans h
    · exact .inr (.inl ⟨_, by decide, rfl⟩)
    · exact .inl ⟨by simp [changesOnlyRowOf], rfl, rfl, rfl, rfl⟩
  | modinv =>
    rcases execModinv_cases s with ⟨-, e⟩ | ⟨-, hg, e⟩ | ⟨-, -, e⟩ <;> cases e.symm.trans h
    · exact .inr (.inl ⟨_, by decide, rfl⟩)
    · exact .inr (.inr (.inl ⟨rfl, _, hg, rfl⟩))
    · exact .inl ⟨by simp [changesOnlyRowOf], rfl, rfl, rfl, rfl⟩
  | mrw =>
    rcases execMrw_cases s with ⟨-, e⟩ | ⟨-, e⟩ <;> cases e.symm.trans h
    · exact .inr (.inl ⟨_, by decide, rfl⟩)
    · exact .inl ⟨by simp [changesOnlyRowOf], rfl, rfl, rfl, rfl⟩
  | mrpp =>
    have verdict : ∀ b n, commitsRowOf .mrpp s (mrppVerdict b n s) := fun b n =>
      ⟨by simp [changesOnlyRowOf, mrppVerdict], rfl, rfl, rfl, rfl⟩
    rcases execMrpp_cases s with ⟨b, -, e⟩ | ⟨-, -, ⟨a, -, -, e⟩ | ⟨a, -, -, -, -, e⟩ |
      ⟨-, ⟨-, e⟩ | ⟨-, e⟩⟩⟩ <;> cases e.symm.trans h
    · exact .inl (verdict _ _)
    · exact .inr (.inl ⟨_, by decide, rfl⟩)
    · exact .inl (verdict _ _)
    · exact .inr (.inr (.inr ⟨rfl, rfl⟩))
    · exact .inl (verdict _ _)

/-- The frame of every command, the part of the state that is in no row. -/
theorem exec_frame {i : Instr} {s t : State} (h : exec i s = .next t) :
    t.params = s.params ∧ sameOperands s t ∧ t.ctrlIe = s.ctrlIe ∧ t.cmd = s.cmd ∧
      t.intStatus.ovr = s.intStatus.ovr ∧ t.resetLine = s.resetLine ∧ t.response = s.response ∧
      t.fresh = s.fresh ∧ t.script = s.script ∧ t.host = s.host := by
  rcases exec_cases i s with ⟨r0, r1, r2, st, e⟩ | ⟨-, -, -, -, e⟩ <;> cases e.symm.trans h <;>
    exact ⟨rfl, ⟨rfl, rfl, rfl⟩, rfl, rfl, rfl, rfl, rfl, rfl, rfl, rfl⟩

/-- A command that changes none of its row, or NCOP alone as a MODINV, keeps to its row. -/
theorem changesOnlyRowOf_of_eq {i : Instr} {s t : State} (hbig : t.big = s.big)
    (hcomp : t.status.comp = s.status.comp) (hncop : t.status.ncop = s.status.ncop ∨ i = .modinv)
    (husign : t.status.usign = s.status.usign) (hvsign : t.status.vsign = s.status.vsign)
    (hwcnt : t.status.wcnt = s.status.wcnt) : changesOnlyRowOf i s t := by
  refine ⟨fun h => absurd (by rw [hbig]) h, fun h => ?_, fun h => ?_, fun h => ?_,
    fun h => absurd hcomp h, fun h => absurd hwcnt h⟩
  · rw [hbig] at h
    simp at h
  · rw [husign, hvsign] at h
    simp at h
  · exact .inr (hncop.resolve_left h)

/-- Every outcome of a command changes only its row. -/
theorem exec_changesOnlyRow {i : Instr} {s t : State} (h : exec i s = .next t) :
    changesOnlyRowOf i s t := by
  rcases exec_outcomes h with ⟨hrow, -⟩ | ⟨c, -, rfl⟩ | ⟨rfl, g, -, rfl⟩ | ⟨-, rfl⟩
  · exact hrow
  · exact changesOnlyRowOf_of_eq rfl rfl (.inl rfl) rfl rfl rfl
  · exact changesOnlyRowOf_of_eq rfl rfl (.inr rfl) rfl rfl rfl
  · exact changesOnlyRowOf_of_eq rfl rfl (.inl rfl) rfl rfl rfl

/-- STATUS stands at one offset (20_memory.md R81). -/
theorem decodeOffset_status {p : Params} {off : Nat} (h : decodeOffset p off = .status) :
    off = 0x00C := by
  unfold decodeOffset at h
  split at h
  · split at h <;> cases h
    rfl
  · split at h
    · split at h <;> cases h
    · cases h

/-- An offset that names a limb lies in the register's window of `0x1000` bytes (20_memory.md R81). -/
theorem decodeOffset_limb_window {p : Params} {off i : Nat} {r : BigReg}
    (h : decodeOffset p off = .limb r i) : windowBase r ≤ off ∧ off < windowBase r + 0x1000 := by
  have hreg : ∀ n, regOfNumber n = some r → n = regNumber r := fun n hn => by
    unfold regOfNumber at hn
    split at hn <;> cases hn <;> rfl
  unfold decodeOffset at h
  split at h
  · split at h <;> cases h
  · split at h
    · rename_i r' hr
      split at h
      · cases h
        have := hreg _ hr
        unfold windowBase
        omega
      · cases h
    · cases h

/-- A read outside STATUS, INT_STATUS and the windows of R0, R1 and R2 sees the parameters, CTRL, CMD and
the operands alone. -/
theorem memRead_congr {s t : State} {off : Nat} (hp : t.params = s.params) (hops : sameOperands s t)
    (hie : t.ctrlIe = s.ctrlIe) (hcmd : t.cmd = s.cmd) (hst : off ≠ 0x00C) (hint : off ≠ 0x010)
    (hwin : ¬ (0x4000 ≤ off ∧ off < 0x7000)) : memRead t off = memRead s off := by
  obtain ⟨ha, hb, hn⟩ := hops
  unfold memRead
  rw [hp]
  cases h : decodeOffset s.params off with
  | id | beyond | reserved => rfl
  | param => exact congrArg paramWord hp
  | ctrl => simp only [readTarget, ctrlWord, hie]
  | status => exact absurd (decodeOffset_status h) hst
  | intStatus => exact absurd (decodeOffset_intStatus h) hint
  | cmd => exact hcmd
  | limb r i =>
    obtain ⟨hlo, hhi⟩ := decodeOffset_limb_window h
    cases r with
    | a => simp only [readTarget, getBig, ha]
    | b => simp only [readTarget, getBig, hb]
    | n => simp only [readTarget, getBig, hn]
    | r0 | r1 | r2 =>
      exact absurd ⟨le_trans (by decide) hlo, lt_of_lt_of_le hhi (by decide)⟩ hwin

/-- Settles O16: by the four outcomes of a command, the frame, and what a read depends on. -/
theorem commandsWriteOnlyTheirRow : Obligations.CommandsWriteOnlyTheirRow := by
  intro i s t h
  obtain ⟨hp, hops, hie, hcmd, hrest⟩ := exec_frame h
  refine ⟨⟨hp, hops, hie, hcmd, hrest⟩, exec_changesOnlyRow h, ?_, ?_, ?_,
    fun off h1 h2 h3 => memRead_congr hp hops hie hcmd h1 h2 h3⟩
  · intro hs ht
    rcases exec_outcomes h with ⟨-, herr, -⟩ | ⟨c, hc, rfl⟩ | ⟨rfl, g, hg, rfl⟩ | ⟨-, rfl⟩
    · exact absurd (herr.symm.trans ht) (ne_true_of_eq_false hs)
    · exact ⟨rfl, rfl, rfl, rfl, rfl, fun hn => absurd hn hc, fun _ => rfl⟩
    · exact ⟨rfl, rfl, rfl, rfl, rfl, fun _ => ⟨rfl, decide_eq_true hg⟩, fun hn => absurd rfl hn⟩
    · exact absurd ht (ne_true_of_eq_false hs)
  · intro hs ht
    rcases exec_outcomes h with ⟨-, -, -, -, hdone⟩ | ⟨c, -, rfl⟩ | ⟨-, g, -, rfl⟩ | ⟨-, rfl⟩
    · exact hdone
    · rfl
    · rfl
    · exact absurd (hs.symm.trans ht) (by decide)
  · intro ht
    rcases exec_outcomes h with ⟨-, -, -, hrest, -⟩ | ⟨c, -, rfl⟩ | ⟨-, g, -, rfl⟩ | ⟨-, rfl⟩
    · rw [hrest] at ht
      cases ht
    · cases ht
    · cases ht
    · exact ⟨rfl, rfl, rfl⟩

end Sys2Proof.Machine
end

section
/-! PROOF. What a step may do to the results and to the operands (10_state.md R37, R38, R62): what
each agent may do, then what a step may. -/

namespace Sys2Proof.Machine

open Sys2Proof.Statements

/-! ### Decoded words -/

/-- A word that decodes to a command is that command's word (30_encoding.md R112). -/
theorem eq_encode_of_decodeCmd {w : Word} {i : Instr} (h : decodeCmd w = .ok i) : w = encode i := by
  unfold decodeCmd at h
  split at h
  · cases h
  · have hhigh : w.toNat / 16 = 0 := by
      have hrsv : (rsvField w).toNat = 0 := by rw [not_not.mp ‹¬ rsvField w ≠ 0›]; rfl
      rw [rsvField, BitVec.extractLsb'_toNat, Nat.shiftRight_eq_div_pow] at hrsv
      have := w.isLt
      omega
    have hlow : (opField w).toNat = w.toNat % 16 := by
      rw [opField, BitVec.extractLsb'_toNat, Nat.shiftRight_zero]
    unfold decodeOp at h
    split at h <;> cases h <;> apply BitVec.eq_of_toNat_eq <;>
      simp only [encode, BitVec.toNat_ofNat] <;> omega

/-! ### What a bus transaction may do -/

/-- The registers, the flags and the command in progress are those of `s`. -/
def sameCommand (s t : State) : Prop :=
  t.big = s.big ∧ t.status = s.status ∧ t.cmd = s.cmd ∧ t.engine = s.engine

/-- `t` is the served, aligned 32-bit write of limb `i` of `r` (20_memory.md R82, R84). -/
def isLimbWrite (s : State) (t : BusTxn) (r : BigReg) (i : Nat) : Prop :=
  i < s.params.limbs ∧ s.resetLine = false ∧ windowBase r + 4 * i < 0x10000 ∧
  (windowBase r + 4 * i) % 4 = 0 ∧ ∃ v, t = writeAt s (windowBase r + 4 * i) v

theorem sameResults_of_eq {s t : State} (hbig : t.big = s.big) (hst : t.status = s.status) :
    sameResults s t := by
  simp [sameResults, hbig, hst]

theorem sameOperands_of_eq {s t : State} (hbig : t.big = s.big) : sameOperands s t := by
  simp [sameOperands, hbig]

theorem getBig_of_sameOperands {s t : State} (h : sameOperands s t) {r : BigReg}
    (hr : hostWritable r = true) : getBig r t = getBig r s := by
  obtain ⟨ha, hb, hn⟩ := h
  cases r with
  | a => exact ha
  | b => exact hb
  | n => exact hn
  | r0 | r1 | r2 => cases hr

theorem sameResults_setBig {r : BigReg} (hr : hostWritable r = true) (v : Nat) (s : State) :
    sameResults s (setBig r v s) := by
  cases r with
  | a | b | n => exact ⟨rfl, rfl, rfl, rfl, rfl, rfl, rfl, rfl⟩
  | r0 | r1 | r2 => cases hr

/-- What a bus transaction may do to registers, flags and the command in progress: nothing, a reset, or,
while idle, an acceptance or the write of one limb of A, B or N. -/
theorem serve_effects (t : BusTxn) (s : State) :
    sameCommand s (serve t s) ∨ (serve t s).blockAtReset ∨
    (s.engine.phase = .idle ∧ sameResults s (serve t s) ∧
      (sameOperands s (serve t s) ∨
        ∃ r i, isLimbWrite s t r i ∧ ∀ q, q ≠ r → getBig q (serve t s) = getBig q s)) := by
  have hidle : s.engine.phase ≠ .busy → s.engine.phase = .idle := by
    cases s.engine.phase <;> simp
  rcases serve_cases t s with ⟨resp, f, e⟩ | ⟨off, v, hr, hlt, hal, ht, e⟩
  · rw [e]
    exact .inl ⟨rfl, rfl, rfl, rfl⟩
  rw [e]
  rcases memWrite_cases off v s with e | ⟨-, -, e⟩ | ⟨-, -, e⟩ | ⟨-, e⟩ | ⟨-, -, e⟩ | ⟨-, hb, e⟩ |
    ⟨r, i, hb, hw, hi, hoff, e⟩ <;> rw [e]
  · exact .inl ⟨rfl, rfl, rfl, rfl⟩
  · exact .inr (.inl ⟨rfl, rfl, rfl, rfl, rfl, rfl⟩)
  · exact .inl ⟨rfl, rfl, rfl, rfl⟩
  · exact .inl ⟨rfl, rfl, rfl, rfl⟩
  · exact .inl ⟨rfl, rfl, rfl, rfl⟩
  · exact .inr (.inr ⟨hidle hb, ⟨rfl, rfl, rfl, rfl, rfl, rfl, rfl, rfl⟩, .inl ⟨rfl, rfl, rfl⟩⟩)
  · have hoff : off = windowBase r + 4 * i := by omega
    subst hoff
    exact .inr (.inr ⟨hidle hb, sameResults_setBig hw _ s,
      .inr ⟨r, i, ⟨hi, hr, hlt, hal, v, ht⟩, fun q hq => getBig_setBig_other s hq _⟩⟩)

/-- While BUSY a bus transaction leaves the command in progress alone or resets the block. -/
theorem serve_busy {t : BusTxn} {s : State} (h : s.engine.phase = .busy) :
    sameCommand s (serve t s) ∨ (serve t s).blockAtReset := by
  rcases serve_effects t s with hsame | hreset | ⟨hidle, -⟩
  · exact .inl hsame
  · exact .inr hreset
  · exact absurd (h.symm.trans hidle) (by decide)

theorem serve_results (t : BusTxn) (s : State) :
    sameResults s (serve t s) ∨ (serve t s).blockAtReset := by
  rcases serve_effects t s with ⟨hbig, hst, -, -⟩ | hreset | ⟨-, hres, -⟩
  · exact .inl (sameResults_of_eq hbig hst)
  · exact .inr hreset
  · exact .inl hres

/-- A bus transaction changes an operand only at a reset or by a write of one of its own limbs while idle. -/
theorem serve_operands (t : BusTxn) (s : State) :
    (serve t s).blockAtReset ∨ ∀ r, hostWritable r = true →
      getBig r (serve t s) = getBig r s ∨ (s.engine.phase = .idle ∧ ∃ i, isLimbWrite s t r i) := by
  rcases serve_effects t s with ⟨hbig, -⟩ | hreset | ⟨hidle, -, hops | ⟨r, i, hlimb, hother⟩⟩
  · exact .inr fun q hq => .inl (getBig_of_sameOperands (sameOperands_of_eq hbig) hq)
  · exact .inl hreset
  · exact .inr fun q hq => .inl (getBig_of_sameOperands hops hq)
  · refine .inr fun q _ => ?_
    by_cases hqr : q = r
    · exact .inr ⟨hidle, i, hqr ▸ hlimb⟩
    · exact .inl (hother q hqr)

/-! ### What the engine's turn may do -/

/-- From `s` to `t` the command in progress completes with a change of its row: a commit, or the NONCOPRIME
of MODINV, which writes NCOP alone (10_state.md R37, R48). -/
def completesWithResults (s t : State) : Prop :=
  s.engine.phase = .busy ∧ t.engine.phase = .idle ∧ t.intStatus.doneP = true ∧
  ∃ i, s.cmd = encode i ∧ changesOnlyRowOf i s t ∧
    ((t.status.err = s.status.err ∧ t.status.errcode = s.status.errcode) ∨
      (i = .modinv ∧ t.status.err = true ∧ t.status.errcode = .nonCoprime ∧
        t.status.ncop = true ∧ t.big = s.big))

theorem engineStep_results {s t : State} (h : engineStep s = .next t) :
    sameResults s t ∨ completesWithResults s t := by
  rcases engineStep_cases s with ⟨-, e⟩ | ⟨-, -, e⟩ | ⟨i, hready, hdec, e⟩
  · cases e.symm.trans h
    exact .inl (sameResults_of_eq rfl rfl)
  · cases e.symm.trans h
    exact .inl ⟨rfl, rfl, rfl, rfl, rfl, rfl, rfl, rfl⟩
  · rw [e] at h
    have hbusy := ((engineReady_iff s).mp hready).1
    have hcmd := eq_encode_of_decodeCmd hdec
    have hrow := exec_changesOnlyRow h
    rcases exec_outcomes h with ⟨-, herr, hcode, hrest, hdone⟩ | ⟨c, -, rfl⟩ | ⟨rfl, g, hg, rfl⟩ |
      ⟨-, rfl⟩
    · exact .inr ⟨hbusy, by rw [hrest]; rfl, hdone, i, hcmd, hrow, .inl ⟨herr, hcode⟩⟩
    · exact .inl ⟨rfl, rfl, rfl, rfl, rfl, rfl, rfl, rfl⟩
    · exact .inr ⟨hbusy, rfl, rfl, .modinv, hcmd, hrow,
        .inr ⟨rfl, rfl, rfl, decide_eq_true hg, rfl⟩⟩
    · exact .inl (sameResults_of_eq rfl rfl)

theorem engineStep_operands {s t : State} (h : engineStep s = .next t) : sameOperands s t := by
  rcases engineStep_cases s with ⟨-, e⟩ | ⟨-, -, e⟩ | ⟨i, -, -, e⟩
  · cases e.symm.trans h
    exact sameOperands_of_eq rfl
  · cases e.symm.trans h
    exact sameOperands_of_eq rfl
  · exact (exec_frame (e.symm.trans h)).2.1

/-- A block at its reset values is idle, so the engine's turn changes nothing. -/
theorem engineStep_of_blockAtReset {s t : State} (hs : s.blockAtReset) (h : engineStep s = .next t) :
    t = s := by
  obtain ⟨-, -, -, -, -, heng⟩ := hs
  have hready : engineReady s = false := by simp [engineReady, busy, heng, Engine.atRest]
  simp only [engineStep, hready] at h
  cases h
  rfl

/-- A transaction that left the command in progress alone is not seen in what that command then does. -/
theorem completesWithResults_of_sameCommand {s u t : State} (hu : sameCommand s u)
    (h : completesWithResults u t) : completesWithResults s t := by
  obtain ⟨hbig, hst, hcmd, heng⟩ := hu
  simpa only [completesWithResults, changesOnlyRowOf, hbig, hst, hcmd, heng] using h

theorem sameResults_of_sameCommand {s u t : State} (hu : sameCommand s u) (h : sameResults u t) :
    sameResults s t := by
  obtain ⟨hbig, hst, -, -⟩ := hu
  simpa only [sameResults, hbig, hst] using h

/-! ### What the other agents may do -/

theorem releaseReset_cases (s : State) : releaseReset s = s ∨ (releaseReset s).blockAtReset := by
  unfold releaseReset
  split
  · exact .inr ⟨rfl, rfl, rfl, rfl, rfl, rfl⟩
  · exact .inl rfl

theorem deliver_big_status (a : Nat) (s : State) :
    (deliver a s).big = s.big ∧ (deliver a s).status = s.status := by
  unfold deliver
  split <;> exact ⟨rfl, rfl⟩

/-! ### What a step may do -/

/-- A step leaves the results, leaves the block at reset, or completes the command in progress. -/
theorem step_results {s s' : State} (h : step s = .next s') :
    sameResults s s' ∨ s'.blockAtReset ∨ completesWithResults s s' := by
  have hserve : ∀ t, sameResults s (serve t s.popped) ∨ (serve t s.popped).blockAtReset := fun t =>
    serve_results t s.popped
  rcases step_cases h with ⟨-, he⟩ | ⟨t, -, rfl⟩ | ⟨t, -, hb, he⟩ | ⟨-, rfl⟩ | ⟨a, -, rfl⟩ |
    ⟨-, rfl⟩ | ⟨-, rfl⟩ | ⟨-, rfl⟩
  · exact (engineStep_results he).imp_right .inr
  · exact (hserve t).imp_right .inl
  · rcases serve_busy (t := t) (s := s.popped) hb with hsame | hreset
    · rcases engineStep_results he with hres | hcomp
      · exact .inl (sameResults_of_sameCommand hsame hres)
      · exact .inr (.inr (completesWithResults_of_sameCommand hsame hcomp))
    · exact .inr (.inl (engineStep_of_blockAtReset hreset he ▸ hreset))
  · rcases hostStep_cases s.popped with ⟨ha, r, f, e⟩ | ⟨off, w, ha, -, -, e⟩ <;> rw [e]
    · exact .inl (sameResults_of_eq rfl rfl)
    · exact (hserve _).imp_right .inl
  · obtain ⟨hbig, hst⟩ := deliver_big_status a s.popped
    exact .inl (sameResults_of_eq hbig hst)
  · exact .inl (sameResults_of_eq rfl rfl)
  · exact .inr (.inl ⟨rfl, rfl, rfl, rfl, rfl, rfl⟩)
  · rcases releaseReset_cases s.popped with e | hreset
    · rw [e]
      exact .inl (sameResults_of_eq rfl rfl)
    · exact .inr (.inl hreset)

/-- Settles O13: a step that resets the block or completes a command ends idle. -/
theorem resultsHoldWhileBusy : Obligations.ResultsHoldWhileBusy := by
  intro s s' h hbusy
  rcases step_results h with hres | ⟨-, -, -, -, -, heng⟩ | ⟨-, hidle, -⟩
  · exact hres
  · rw [heng] at hbusy
    cases hbusy
  · exact absurd (hbusy.symm.trans hidle) (by decide)

/-- A write to the windows of R0, R1 and R2 is ignored (20_memory.md R88). -/
theorem memWrite_result_windows {off : Nat} (hlo : 0x4000 ≤ off) (hhi : off < 0x7000) (v : Word)
    (s : State) : memWrite off v s = s := by
  unfold memWrite
  cases h : decodeOffset s.params off with
  | id | param | status | beyond | reserved => rfl
  | ctrl => have := decodeOffset_ctrl h; omega
  | intStatus => have := decodeOffset_intStatus h; omega
  | cmd => have := decodeOffset_cmd h; omega
  | limb r i =>
    obtain ⟨-, hwin⟩ := decodeOffset_limb_window h
    cases r with
    | a | b | n => exact absurd (lt_of_lt_of_le hwin (by decide)) (Nat.not_lt.mpr hlo)
    | r0 | r1 | r2 => rfl

/-- Settles O14: by what a step may do to the results, and the read-only windows. -/
theorem resultRegistersChangeOnlyAtCommit : Obligations.ResultRegistersChangeOnlyAtCommit := by
  refine ⟨fun s s' h => step_results h, fun s off v hlo hhi hal hr => ?_⟩
  rw [serve_writeAt v hr (by omega) hal, memWrite_result_windows hlo hhi]

/-- The block is idle and the next step serves a host write to a limb of `r` (10_state.md R38). -/
def servesLimbWrite (s : State) (r : BigReg) : Prop :=
  s.engine.phase = .idle ∧ ∃ i v, i < s.params.limbs ∧ servesWrite s (windowBase r + 4 * i) v

/-- A step leaves the block at reset, or changes an operand only by a write of one of its limbs while idle. -/
theorem step_operands {s s' : State} (h : step s = .next s') :
    s'.blockAtReset ∨ ∀ r, hostWritable r = true → getBig r s' = getBig r s ∨ servesLimbWrite s r := by
  have keep : ∀ u, sameOperands s u → ∀ r, hostWritable r = true → getBig r u = getBig r s ∨
      servesLimbWrite s r := fun u hu r hr => .inl (getBig_of_sameOperands hu hr)
  rcases step_cases h with ⟨-, he⟩ | ⟨t, hscript, rfl⟩ | ⟨t, -, hb, he⟩ | ⟨hscript, rfl⟩ |
    ⟨a, -, rfl⟩ | ⟨-, rfl⟩ | ⟨-, rfl⟩ | ⟨-, rfl⟩
  · exact .inr (keep _ (engineStep_operands (s := s.popped) he))
  · refine (serve_operands t s.popped).imp_right fun hops r hr => (hops r hr).imp_right ?_
    rintro ⟨hidle, i, hi, hline, hlt, hal, v, rfl⟩
    exact ⟨hidle, i, v, hi, hline, hlt, hal, hscript.imp_right fun hboth => .inl hboth.1⟩
  · rcases serve_busy (t := t) (s := s.popped) hb with ⟨hbig, -⟩ | hreset
    · obtain ⟨ha, hb, hn⟩ := engineStep_operands he
      rw [hbig] at ha hb hn
      exact .inr (keep _ ⟨ha, hb, hn⟩)
    · exact .inl (engineStep_of_blockAtReset hreset he ▸ hreset)
  · rcases hostStep_cases s.popped with ⟨ha, r, f, e⟩ | ⟨off, w, ha, hhalt, hline, e⟩ <;> rw [e]
    · exact .inr (keep _ (sameOperands_of_eq rfl))
    · refine (serve_operands _ s.popped).imp_right fun hops r hr => (hops r hr).imp_right ?_
      rintro ⟨hidle, i, hi, hreset, hlt, hal, v, htxn⟩
      have hoff : off = windowBase r + 4 * i := Nat.add_left_cancel (congrArg BusTxn.addr htxn)
      have hw : w = v := BusOp.write.inj (congrArg BusTxn.op htxn)
      subst hoff hw
      exact ⟨hidle, i, w, hi, hreset, hlt, hal, .inr (.inr ⟨hscript, hhalt, hline⟩)⟩
  · exact .inr (keep _ (sameOperands_of_eq (deliver_big_status a s.popped).1))
  · exact .inr (keep _ (sameOperands_of_eq rfl))
  · exact .inl ⟨rfl, rfl, rfl, rfl, rfl, rfl⟩
  · rcases releaseReset_cases s.popped with e | hreset
    · rw [e]
      exact .inr (keep _ (sameOperands_of_eq rfl))
    · exact .inl hreset

/-- Settles O15: by what a step may do to the operands, the frame of the commands, and the windows. -/
theorem operandsStableWhileBusy : Obligations.OperandsStableWhileBusy := by
  refine ⟨fun s s' h => ?_, fun i s t h => (exec_frame h).2.1, fun s r i v hp hb hr hw => ?_⟩
  · refine (step_operands h).imp_right fun hops r hr => hops r ?_
    rcases hr with rfl | rfl | rfl <;> rfl
  · have hL := (limbs_of_wf hp).2
    have hserve : i ≤ 1023 → serve (writeAt s (windowBase r + 4 * i) v) s =
        { (if i < s.params.limbs then writeLimb r i v s else s) with response := .written } :=
      fun hi => by
        have hn : regNumber r ≤ 5 := by cases r <;> decide
        rw [serve_writeAt v hr (by unfold windowBase; omega) (by unfold windowBase; omega),
          memWrite_window s r hi]
    refine ⟨fun hi => ?_, fun hlo hhi => ?_⟩
    · rw [hserve (by omega), if_pos hi, writeLimb, if_pos hw, if_pos ((busy_iff s).mpr hb)]
      rfl
    · rw [hserve hhi, if_neg (by omega)]

end Sys2Proof.Machine
end

section
/-! PROOF. The kernel of XGCD (41_xgcd.md R150 to R155): its loop by one induction, the gcd, the Bézout
identity and the coefficient bound, and the sign-magnitude form of the results (10_state.md R36). -/

namespace Sys2Proof.Machine

/-! ### The loop -/

/-- What every pass with `y ≠ 0` keeps holds at the end of the loop, where `y = 0`. -/
theorem xgcdLoop_induct {P : XgcdVars → Prop} (hpass : ∀ w, w.y ≠ 0 → P w → P (xgcdPass w)) :
    ∀ (turns : Nat) (w : XgcdVars), P w → w.y < turns →
      P (xgcdLoop turns w) ∧ (xgcdLoop turns w).y = 0 := by
  intro turns
  induction turns with
  | zero => intro w _ hlt; omega
  | succ turns ih =>
    intro w hw hlt
    rw [xgcdLoop]
    split
    · exact ⟨hw, ‹_›⟩
    · have hfall : (xgcdPass w).y < w.y := Nat.mod_lt _ (Nat.pos_of_ne_zero ‹_›)
      exact ih _ (hpass w ‹_› hw) (by omega)

/-- The loop invariant of `XGCD_core(a, b)`: the gcd (R152), the coefficients of R153, and the identity
of magnitudes behind the bound of R155, since `u` and `x` never have the same sign. -/
structure XgcdInv (a b : Nat) (w : XgcdVars) : Prop where
  gcd : Nat.gcd w.g w.y = Nat.gcd a b
  dvd_g : (b : Int) ∣ w.g - a * w.u
  dvd_y : (b : Int) ∣ w.y - a * w.x
  signs : 0 ≤ w.u ∧ w.x ≤ 0 ∨ w.u ≤ 0 ∧ 0 ≤ w.x
  magnitudes : w.x.natAbs * w.g + w.u.natAbs * w.y = b

theorem xgcdStart_inv (a b : Nat) : XgcdInv a b (xgcdStart a b) where
  gcd := rfl
  dvd_g := by simp [xgcdStart]
  dvd_y := by simp [xgcdStart]
  signs := .inl ⟨by simp [xgcdStart], by simp [xgcdStart]⟩
  magnitudes := by simp [xgcdStart]

/-- The new coefficient of a pass adds up in magnitude, its two terms having one sign. -/
theorem natAbs_xgcdPass_x {w : XgcdVars} (h : 0 ≤ w.u ∧ w.x ≤ 0 ∨ w.u ≤ 0 ∧ 0 ≤ w.x) :
    (xgcdPass w).x.natAbs = w.u.natAbs + w.g / w.y * w.x.natAbs := by
  have hq : ((w.g / w.y * w.x.natAbs : Nat) : Int) = (w.g / w.y : Nat) * |w.x| := by
    rw [Nat.cast_mul, Int.natCast_natAbs]
  have hx : (xgcdPass w).x = w.u - (w.g / w.y : Nat) * w.x := rfl
  rcases h with ⟨hu, hx0⟩ | ⟨hu, hx0⟩
  · rw [abs_of_nonpos hx0, mul_neg] at hq
    omega
  · rw [abs_of_nonneg hx0] at hq
    omega

theorem xgcdPass_inv {a b : Nat} {w : XgcdVars} (h : XgcdInv a b w) : XgcdInv a b (xgcdPass w) where
  gcd := by
    rw [← h.gcd, Nat.gcd_comm w.g, Nat.gcd_rec w.y, Nat.gcd_comm]
    rfl
  dvd_g := h.dvd_y
  dvd_y := by
    have hy : ((w.g % w.y : Nat) : Int) = w.g - w.y * (w.g / w.y : Nat) := by
      rw [Int.natCast_mod, Int.natCast_div, Int.emod_def]
    have hsplit : ((xgcdPass w).y : Int) - a * (xgcdPass w).x =
        (w.g - a * w.u) - (w.g / w.y : Nat) * (w.y - a * w.x) := by
      simp only [xgcdPass]
      rw [hy]
      ring
    rw [hsplit]
    exact dvd_sub h.dvd_g (h.dvd_y.mul_left _)
  signs := by
    have hq : (0 : Int) ≤ (w.g / w.y : Nat) := Int.natCast_nonneg _
    rcases h.signs with ⟨hu, hx⟩ | ⟨hu, hx⟩
    · exact .inr ⟨hx, by simp only [xgcdPass]; nlinarith⟩
    · exact .inl ⟨hx, by simp only [xgcdPass]; nlinarith⟩
  magnitudes := by
    rw [natAbs_xgcdPass_x h.signs]
    calc (w.u.natAbs + w.g / w.y * w.x.natAbs) * w.y + w.x.natAbs * (w.g % w.y)
        = w.x.natAbs * (w.y * (w.g / w.y) + w.g % w.y) + w.u.natAbs * w.y := by ring
      _ = b := by rw [Nat.div_add_mod, h.magnitudes]

/-- From the first pass on the remainders fall, and the last quotient is at least 2, unless the loop ends
with `u = 0`. -/
def xgcdTurned (w : XgcdVars) : Prop :=
  w.y < w.g ∧ (w.y = 0 → 2 * w.u.natAbs ≤ w.x.natAbs)

theorem xgcdPass_start_turned {a b : Nat} (hb : 0 < b) : xgcdTurned (xgcdPass (xgcdStart a b)) :=
  ⟨Nat.mod_lt _ hb, fun _ => by simp [xgcdPass, xgcdStart]⟩

theorem xgcdPass_turned {a b : Nat} {w : XgcdVars} (hy : w.y ≠ 0) (hinv : XgcdInv a b w)
    (h : xgcdTurned w) : xgcdTurned (xgcdPass w) := by
  refine ⟨Nat.mod_lt _ (Nat.pos_of_ne_zero hy), fun hend => ?_⟩
  have hmod : w.g % w.y = 0 := hend
  have hquot : 2 ≤ w.g / w.y := by
    have hg := Nat.div_add_mod w.g w.y
    have hlt := h.1
    by_contra hq
    have : w.y * (w.g / w.y) ≤ w.y * 1 := Nat.mul_le_mul_left _ (by omega)
    omega
  rw [natAbs_xgcdPass_x hinv.signs]
  exact le_trans (Nat.mul_le_mul_right _ hquot) (Nat.le_add_left _ _)

/-! ### The result -/

/-- The end of the loop of `XGCD_core(a, b)`, from which `xgcdCore` takes `g` and `u`. -/
def xgcdEnd (a b : Nat) : XgcdVars := xgcdLoop (b + 1) (xgcdStart a b)

theorem xgcdEnd_spec (a : Nat) {b : Nat} (hb : 0 < b) :
    XgcdInv a b (xgcdEnd a b) ∧ xgcdTurned (xgcdEnd a b) ∧ (xgcdEnd a b).y = 0 := by
  have hfirst : xgcdEnd a b = xgcdLoop b (xgcdPass (xgcdStart a b)) :=
    if_neg hb.ne'
  rw [hfirst, ← and_assoc]
  exact xgcdLoop_induct (P := fun w => XgcdInv a b w ∧ xgcdTurned w)
    (fun w hy h => ⟨xgcdPass_inv h.1, xgcdPass_turned hy h.1 h.2⟩) b _
    ⟨xgcdPass_inv (xgcdStart_inv a b), xgcdPass_start_turned hb⟩ (Nat.mod_lt _ hb)

/-- R152: the kernel's `g` is the gcd. -/
theorem xgcdCore_g (a : Nat) {b : Nat} (hb : 0 < b) : (xgcdCore a b).g = Nat.gcd a b := by
  obtain ⟨hinv, -, hy⟩ := xgcdEnd_spec a hb
  have := hinv.gcd
  rwa [hy, Nat.gcd_zero_right] at this

/-- R153: the last division is exact. -/
theorem xgcdCore_dvd (a : Nat) {b : Nat} (hb : 0 < b) :
    (b : Int) ∣ (xgcdCore a b).g - a * (xgcdCore a b).u :=
  (xgcdEnd_spec a hb).1.dvd_g

/-- R153: the Bézout identity. -/
theorem xgcdCore_bezout (a : Nat) {b : Nat} (hb : 0 < b) :
    (a : Int) * (xgcdCore a b).u + b * (xgcdCore a b).v = (xgcdCore a b).g := by
  have hv : (b : Int) * (xgcdCore a b).v = (xgcdCore a b).g - a * (xgcdCore a b).u :=
    Int.mul_ediv_cancel' (xgcdCore_dvd a hb)
  rw [hv]
  ring

/-- The magnitude of `u` is at most half of `b / g`, by the identity of magnitudes at the end. -/
theorem two_mul_xgcdCore_u_mul_g_le (a : Nat) {b : Nat} (hb : 0 < b) :
    2 * (xgcdCore a b).u.natAbs * (xgcdCore a b).g ≤ b := by
  obtain ⟨hinv, ⟨-, hhalf⟩, hy⟩ := xgcdEnd_spec a hb
  have hmag := hinv.magnitudes
  rw [hy, Nat.mul_zero, Nat.add_zero] at hmag
  calc 2 * (xgcdEnd a b).u.natAbs * (xgcdEnd a b).g
      ≤ (xgcdEnd a b).x.natAbs * (xgcdEnd a b).g := Nat.mul_le_mul_right _ (hhalf hy)
    _ = b := hmag

/-- R155, the coefficient of `a`. -/
theorem xgcdCore_u_le (a : Nat) {b : Nat} (hb : 0 < b) :
    (xgcdCore a b).u.natAbs ≤ b / (xgcdCore a b).g := by
  have hg : 0 < (xgcdCore a b).g := by rw [xgcdCore_g a hb]; exact Nat.gcd_pos_of_pos_right a hb
  rw [Nat.le_div_iff_mul_le hg]
  have := two_mul_xgcdCore_u_mul_g_le a hb
  rw [Nat.mul_assoc] at this
  omega

/-- R155, the coefficient of `b`: 1 when `u` is 0, and otherwise at most `a / g`, since then `b ≥ 2 * g`. -/
theorem xgcdCore_v_le (a : Nat) {b : Nat} (hb : 0 < b) :
    (xgcdCore a b).v.natAbs ≤ max 1 (a / (xgcdCore a b).g) := by
  have hgcd := xgcdCore_g a hb
  have hg : 0 < (xgcdCore a b).g := by rw [hgcd]; exact Nat.gcd_pos_of_pos_right a hb
  have hbez := xgcdCore_bezout a hb
  have hhalf := two_mul_xgcdCore_u_mul_g_le a hb
  have htri : b * (xgcdCore a b).v.natAbs ≤
      (xgcdCore a b).g + a * (xgcdCore a b).u.natAbs := by
    calc b * (xgcdCore a b).v.natAbs = ((b : Int) * (xgcdCore a b).v).natAbs := by
          rw [Int.natAbs_mul, Int.natAbs_natCast]
      _ = (((xgcdCore a b).g : Int) - a * (xgcdCore a b).u).natAbs := by
          rw [← hbez, add_sub_cancel_left]
      _ ≤ _ := by
          refine (Int.natAbs_sub_le _ _).trans_eq ?_
          rw [Int.natAbs_mul, Int.natAbs_natCast, Int.natAbs_natCast]
  have hgb : (xgcdCore a b).g ≤ b := hgcd ▸ Nat.gcd_le_right a hb
  have hga : (xgcdCore a b).g ∣ a := hgcd ▸ Nat.gcd_dvd_left a b
  generalize (xgcdCore a b).g = g at *
  generalize (xgcdCore a b).v.natAbs = v at *
  generalize (xgcdCore a b).u.natAbs = u at *
  rcases Nat.eq_zero_or_pos u with hu | hu
  · refine le_max_of_le_left (Nat.le_of_mul_le_mul_left ?_ hb)
    rw [hu] at htri
    omega
  · have hg2 : 2 * g ≤ b := (Nat.mul_le_mul_right g (by omega : 2 ≤ 2 * u)).trans hhalf
    refine le_max_of_le_right ((Nat.le_div_iff_mul_le hg).mpr ?_)
    rcases Nat.eq_zero_or_pos a with ha | ha
    · have hv : b * v < b * 1 := by rw [ha] at htri; omega
      have := Nat.lt_of_mul_lt_mul_left hv
      simp [show v = 0 by omega]
    · have hle : g ≤ a := Nat.le_of_dvd ha hga
      refine Nat.le_of_mul_le_mul_left ?_ (by omega : 0 < 2 * b)
      calc 2 * b * (v * g) = b * v * (2 * g) := by ring
        _ ≤ (g + a * u) * (2 * g) := Nat.mul_le_mul_right _ htri
        _ = g * (2 * g) + a * (2 * u * g) := by ring
        _ ≤ a * b + a * b := Nat.add_le_add (Nat.mul_le_mul hle hg2) (Nat.mul_le_mul_left _ hhalf)
        _ = 2 * b * a := by ring

/-! ### Sign and magnitude -/

/-- The sign-magnitude form of a coefficient gives it back (10_state.md R36). -/
theorem signMagnitude_eq (c : Int) :
    (if signOf c = true then -(c.natAbs : Int) else c.natAbs) = c := by
  simp only [signOf, decide_eq_true_eq]
  split <;> omega

/-- Settles O27: no magnitude is truncated (R155), so sign and magnitude give the kernel's coefficients. -/
theorem signMagnitudeReadsBack : Obligations.SignMagnitudeReadsBack := by
  intro s hp hwf hb0
  have hb : 0 < s.big.b := Nat.pos_of_ne_zero hb0
  obtain ⟨ha_lt, hb_lt, -⟩ := hwf
  have hone : 1 < s.params.bound :=
    Nat.one_lt_two_pow (by have := (limbs_of_wf hp).1; unfold Params.width; omega)
  have hg : (xgcdCore s.big.a s.big.b).g % s.params.bound = (xgcdCore s.big.a s.big.b).g := by
    refine Nat.mod_eq_of_lt (lt_of_le_of_lt ?_ hb_lt)
    rw [xgcdCore_g _ hb]
    exact Nat.gcd_le_right _ hb
  have hu : (xgcdCore s.big.a s.big.b).u.natAbs % s.params.bound =
      (xgcdCore s.big.a s.big.b).u.natAbs :=
    Nat.mod_eq_of_lt (((xgcdCore_u_le _ hb).trans (Nat.div_le_self _ _)).trans_lt hb_lt)
  have hv : (xgcdCore s.big.a s.big.b).v.natAbs % s.params.bound =
      (xgcdCore s.big.a s.big.b).v.natAbs :=
    Nat.mod_eq_of_lt ((xgcdCore_v_le _ hb).trans_lt
      (max_lt hone ((Nat.div_le_self _ _).trans_lt ha_lt)))
  rcases execXgcd_cases s with ⟨hzero, -⟩ | ⟨-, e⟩
  · exact absurd hzero hb0
  · refine ⟨_, e, ?_⟩
    simp only [commit_big, commit_status, setNcop_big, setNcop_status, setSigns_big, setSigns_status,
      setBig_r0_big, setBig_r1_big, setBig_r2_big, setBig_params, hg, hu, hv]
    refine ⟨signMagnitude_eq _, signMagnitude_eq _, ?_, fun h => ?_, fun h => ?_⟩
    · rw [signMagnitude_eq, signMagnitude_eq]
      exact xgcdCore_bezout _ hb
    · simp [signOf, Int.natAbs_eq_zero.mp h]
    · simp [signOf, Int.natAbs_eq_zero.mp h]

end Sys2Proof.Machine
end

section
/-! PROOF. The bus and the register windows (20_memory.md R82 to R85, R88, R89; 60_exceptions.md R213): what
an access names, which accesses are served, and which have an effect. -/

namespace Sys2Proof.Machine

open Sys2Proof.Statements

/-! ### The register windows -/

/-- The words of a window lie in the device space, at multiples of 4 (20_memory.md R81). -/
theorem window_in_space (r : BigReg) {i : Nat} (hi : i ≤ 1023) :
    windowBase r + 4 * i < 0x10000 ∧ (windowBase r + 4 * i) % 4 = 0 := by
  have hn : regNumber r ≤ 5 := by cases r <;> decide
  unfold windowBase
  omega

theorem hostWritable_iff (r : BigReg) : hostWritable r = true ↔ r = .a ∨ r = .b ∨ r = .n := by
  cases r <;> decide

/-- A register write changes nothing outside the registers. -/
theorem setBig_restore_big (r : BigReg) (x : Nat) (s : State) :
    { setBig r x s with big := s.big } = s := by
  cases r <;> rfl

theorem writeLimb_idle {s : State} {r : BigReg} (hw : hostWritable r = true)
    (hidle : s.engine.phase = .idle) (i : Nat) (v : Word) :
    writeLimb r i v s = setBig r (putLimb (getBig r s) i v) s := by
  rw [writeLimb, if_pos hw, if_neg (by simp [busy, hidle])]

/-- A limb of a read-only register, or any limb while BUSY, keeps its value (20_memory.md R87, R88). -/
theorem writeLimb_big_of_locked {s : State} {r : BigReg}
    (h : hostWritable r = false ∨ s.engine.phase = .busy) (i : Nat) (v : Word) :
    (writeLimb r i v s).big = s.big := by
  unfold writeLimb
  split
  · have hbusy : s.engine.phase = .busy := h.resolve_left (by simp [*])
    rw [if_pos ((busy_iff s).mpr hbusy)]
    rfl
  · rfl

/-- The host's aligned read out of reset answers with the word that `memRead` gives. -/
theorem serve_readAt {s : State} {off : Nat} (hr : s.resetLine = false) (hlt : off < 0x10000)
    (hal : off % 4 = 0) : serve (readAt s off) s = { s with response := .data (memRead s off) } :=
  serve_aligned s .read hr hlt hal

/-- Settles O43: by the access of a window word, and the limb below `2^W` that a write puts in. -/
theorem limbWindows : Obligations.LimbWindows := by
  refine ⟨by decide, fun s => ⟨rfl, rfl, rfl, rfl, rfl, rfl⟩, hostWritable_iff, ?_⟩
  intro s r i v hp hwf
  have hL := (limbs_of_wf hp).2
  have hread : i < s.params.limbs → memRead s (windowBase r + 4 * i) = limbOf (getBig r s) i :=
    fun hi => by rw [memRead_window s r (by omega), if_pos hi]
  have hwrite : i < s.params.limbs → memWrite (windowBase r + 4 * i) v s = writeLimb r i v s :=
    fun hi => by rw [memWrite_window s r (by omega), if_pos hi]
  refine ⟨fun hi => ?_, fun hi hw hidle => ?_, fun hi hlocked => ?_, fun hlo hhi => ?_⟩
  · rw [hread hi, limbOf_toNat]
  · rw [hwrite hi, writeLimb_idle hw hidle, hread hi]
    refine ⟨?_, fun q hq => getBig_setBig_other s hq _, setBig_restore_big r _ s⟩
    rw [getBig_setBig_self, Nat.mod_eq_of_lt (putLimb_lt v (getBig_lt hwf r) hi), putLimb]
  · rw [hwrite hi]
    exact writeLimb_big_of_locked hlocked i v
  · have hzero : memRead s (windowBase r + 4 * i) = 0#32 := by
      rw [memRead_window s r hhi, if_neg (by omega)]
      rfl
    have hkeep : memWrite (windowBase r + 4 * i) v s = s := by
      rw [memWrite_window s r hhi, if_neg (by omega)]
    obtain ⟨hlt, hal⟩ := window_in_space r hhi
    refine ⟨hzero, hkeep, fun hr => ⟨?_, ?_⟩⟩
    · rw [serve_readAt hr hlt hal, hzero]
    · rw [serve_writeAt v hr hlt hal, hkeep]

/-! ### Reserved and read-only offsets -/

/-- The reserved offsets of 20_memory.md R85. -/
theorem decodeOffset_reserved (p : Params) {off : Nat}
    (h : (0x0018 ≤ off ∧ off ≤ 0x0FFF) ∨ (0x7000 ≤ off ∧ off ≤ 0xFFFF)) :
    decodeOffset p off = .reserved := by
  unfold decodeOffset
  rcases h with ⟨hlo, hhi⟩ | ⟨hlo, hhi⟩
  · rw [if_pos (by omega)]
    split
    case h_7 => rfl
    all_goals omega
  · have hnone : regOfNumber (off / 0x1000 - 1) = none := by
      unfold regOfNumber
      split
      case h_7 => rfl
      all_goals omega
    rw [if_neg (by omega), hnone]

theorem memRead_reserved {s : State} {off : Nat} (h : decodeOffset s.params off = .reserved) :
    memRead s off = 0#32 := by
  rw [memRead, h]
  rfl

theorem memWrite_reserved {s : State} {off : Nat} (h : decodeOffset s.params off = .reserved)
    (v : Word) : memWrite off v s = s := by
  rw [memWrite, h]
  rfl

/-- ID, PARAM, STATUS and the windows of R0, R1 and R2 ignore writes (20_memory.md R88). -/
theorem memWrite_readOnly {off : Nat}
    (h : off = 0x000 ∨ off = 0x004 ∨ off = 0x00C ∨ (0x4000 ≤ off ∧ off ≤ 0x6FFF)) (v : Word)
    (s : State) : memWrite off v s = s := by
  rcases h with rfl | rfl | rfl | ⟨hlo, hhi⟩
  · rfl
  · rfl
  · rfl
  · exact memWrite_result_windows hlo (by omega) v s

/-- Settles O45: by the address decode of the reserved offsets and the read-only ones. -/
theorem reservedAndReadOnlyIgnoreWrites : Obligations.ReservedAndReadOnlyIgnoreWrites := by
  refine fun s off v hr hal => ⟨fun hrsv => ⟨?_, ?_⟩, fun hro => ?_⟩
  · rw [serve_readAt hr (by omega) hal, memRead_reserved (decodeOffset_reserved _ hrsv)]
  · rw [serve_writeAt v hr (by omega) hal, memWrite_reserved (decodeOffset_reserved _ hrsv)]
  · rw [serve_writeAt v hr (by omega) hal, memWrite_readOnly hro]

/-! ### Bus errors -/

theorem offsetOf_base_add (s : State) (op : BusOp) (bytes off : Nat) :
    offsetOf s { op := op, bytes := bytes, addr := s.params.base + off } = off :=
  Nat.add_sub_cancel_left _ _

/-- An access of another width or at another offset is a bus error (20_memory.md R84). -/
theorem serve_misaligned {s : State} (op : BusOp) {bytes off : Nat} (hr : s.resetLine = false)
    (hlt : off < 0x10000) (hbad : bytes ≠ 4 ∨ off % 4 ≠ 0) :
    serve { op := op, bytes := bytes, addr := s.params.base + off } s =
      raiseBusError { op := op, bytes := bytes, addr := s.params.base + off } s := by
  have hsel : selected s { op := op, bytes := bytes, addr := s.params.base + off } = true := by
    simp [selected, spaceBytes, hlt]
  have hok : accessOk s { op := op, bytes := bytes, addr := s.params.base + off } = false := by
    rw [accessOk, offsetOf_base_add, Bool.and_eq_false_iff, decide_eq_false_iff_not,
      decide_eq_false_iff_not]
    exact hbad
  simp [serve, hr, hsel, hok]

/-- Settles O46: by the two answers of the bus, served and bus error. -/
theorem onlyAlignedWordsAreServed : Obligations.OnlyAlignedWordsAreServed := by
  refine fun s bytes off hr hlt => ⟨fun hbytes hal => ?_, fun hbad => ⟨?_, fun v => ?_⟩⟩
  · subst hbytes
    exact ⟨serve_aligned s .read hr hlt hal, fun v => serve_aligned s (.write v) hr hlt hal⟩
  · refine ⟨Config.busErrorData s.fresh, ?_⟩
    rw [serve_misaligned .read hr hlt hbad]
    simp only [raiseBusError, offsetOf_base_add]
  · rw [serve_misaligned (.write v) hr hlt hbad]
    simp only [raiseBusError, offsetOf_base_add]

/-! ### Side effects -/

/-- A read changes at most the answer of the bus and the counter of free values (20_memory.md R89). -/
theorem serve_read {t : BusTxn} (ht : t.op = .read) (s : State) :
    ∃ resp f, serve t s = { s with response := resp, fresh := f } := by
  rcases serve_cases t s with hread | ⟨off, v, -, -, -, rfl, -⟩
  · exact hread
  · cases ht

/-- Of the aligned offsets, CTRL, INT_STATUS, CMD and the limbs of A, B and N alone take a write
(20_memory.md R89). -/
theorem memWrite_noEffect {s : State} {off : Nat} (v : Word) (hctrl : off ≠ 0x008)
    (hint : off ≠ 0x010) (hcmd : off ≠ 0x014)
    (hlimb : ∀ r i, hostWritable r = true → i < s.params.limbs → off ≠ windowBase r + 4 * i)
    (hal : off % 4 = 0) : memWrite off v s = s := by
  have hword : ∀ r i, hostWritable r = true → i < s.params.limbs →
      off / 4 * 4 ≠ windowBase r + 4 * i := fun r i hw hi => by
    rw [Nat.div_mul_cancel (Nat.dvd_of_mod_eq_zero hal)]
    exact hlimb r i hw hi
  rcases memWrite_cases off v s with hkeep | ⟨hoff, -⟩ | ⟨hoff, -⟩ | ⟨hoff, -⟩ |
    ⟨-, hoff | ⟨r, i, hw, hi, hoff⟩, -⟩ | ⟨hoff, -⟩ | ⟨r, i, -, hw, hi, hoff, -⟩
  · exact hkeep
  · exact absurd hoff hctrl
  · exact absurd hoff hctrl
  · exact absurd hoff hint
  · exact absurd hoff hcmd
  · exact absurd hoff (hword r i hw hi)
  · exact absurd hoff hcmd
  · exact absurd hoff (hword r i hw hi)

/-- Settles O47: by everything a transaction and a write can do. -/
theorem readsHaveNoSideEffects : Obligations.ReadsHaveNoSideEffects := by
  refine ⟨fun s t ht => ?_, fun s off v hctrl hint hcmd hlimb hal =>
    memWrite_noEffect v hctrl hint hcmd hlimb hal⟩
  obtain ⟨resp, f, e⟩ := serve_read ht s
  rw [e]
  exact ⟨rfl, fun off => rfl⟩

end Sys2Proof.Machine
end

section
/-! PROOF. The opcode map (30_encoding.md R112) and the engine's dispatch on the word in CMD (R114). -/

namespace Sys2Proof.Machine

open Sys2Proof.Statements

/-! ### The opcode map -/

/-- Each command's word decodes to that command. -/
@[simp] theorem decodeCmd_encode (i : Instr) : decodeCmd (encode i) = .ok i := by
  cases i <;> rfl

/-- The decoder and the encoder are inverse on the words that decode. -/
theorem decodeCmd_eq_ok_iff {w : Word} {i : Instr} : decodeCmd w = .ok i ↔ w = encode i :=
  ⟨eq_encode_of_decodeCmd, fun h => by rw [h, decodeCmd_encode]⟩

/-- The words of the commands are 1 to 5. -/
theorem encode_toNat_range (i : Instr) : 1 ≤ (encode i).toNat ∧ (encode i).toNat ≤ 5 := by
  cases i <;> decide

/-- Settles O1: a word that decodes is the word of its command, which the map gives by cases. -/
theorem exactlyFiveWordsAreCommands : Obligations.ExactlyFiveWordsAreCommands := by
  intro w i
  rw [decodeCmd_eq_ok_iff]
  cases i <;> simp [encode]

/-! ### The dispatch -/

/-- The engine that may move on a command's word runs that command (10_state.md R60). -/
theorem engineStep_encode {s : State} {i : Instr} (hcmd : s.cmd = encode i)
    (hready : engineReady s = true) : engineStep s = exec i s := by
  rw [engineStep, if_pos hready, evaluate, hcmd, decodeCmd_encode]

/-- The engine that may move on a word of no command completes with ILLEGAL. -/
theorem engineStep_illegal {s : State} (hcmd : ∀ i, s.cmd ≠ encode i)
    (hready : engineReady s = true) : engineStep s = .next (errored .illegal s) := by
  rcases engineStep_cases s with ⟨hr, -⟩ | ⟨-, -, e⟩ | ⟨i, -, hdec, -⟩
  · exact absurd hready (ne_true_of_eq_false hr)
  · exact e
  · exact absurd (eq_encode_of_decodeCmd hdec) (hcmd i)

/-- Settles O12: an acceptance does not look at the word, and the words of the commands are 1 to 5. -/
theorem illegalWordCompletesWithIllegal : Obligations.IllegalWordCompletesWithIllegal := by
  refine ⟨fun s i hcmd hbusy hreq => engineStep_encode hcmd ((engineReady_iff s).mpr ⟨hbusy, hreq⟩),
    fun s w hw => ⟨fun hidle hr => ?_, fun hcmd hbusy hreq => ?_⟩⟩
  · rw [(cmdWriteAcceptsOrOverruns.2 s w hr).1 hidle]
    exact ⟨rfl, rfl⟩
  · refine engineStep_illegal (fun i hi => ?_) ((engineReady_iff s).mpr ⟨hbusy, hreq⟩)
    have hrange := encode_toNat_range i
    rw [← hi, hcmd] at hrange
    omega

end Sys2Proof.Machine
end

section
/-! PROOF. The kernel of MODEXP (40_modexp.md R131): the invariant of its loop, the length of its loop, and
the command (R130, R132, R133). -/

namespace Sys2Proof.Machine

open Sys2Proof.Statements

/-! ### The loop -/

/-- The loop invariant of `MODEXP_core(g, a, n)`: the power still to be made, and both variables reduced. -/
structure ModexpInv (g a n : Nat) (v : ModexpVars) : Prop where
  power : v.r * v.b ^ v.e % n = g ^ a % n
  r_lt : v.r < n
  b_lt : v.b < n

theorem modexpStart_inv (g a : Nat) {n : Nat} (hn : 0 < n) : ModexpInv g a n (modexpStart g a n) where
  power := by
    change 1 % n * (g % n) ^ a % n = g ^ a % n
    rw [Nat.mod_mul_mod, Nat.one_mul, ← Nat.pow_mod]
  r_lt := Nat.mod_lt _ hn
  b_lt := Nat.mod_lt _ hn

/-- A pass squares the base and halves the exponent; the low bit it drops goes to the accumulator. -/
theorem modexpPass_power (n : Nat) (v : ModexpVars) :
    (modexpPass n v).r * (modexpPass n v).b ^ (modexpPass n v).e % n = v.r * v.b ^ v.e % n := by
  have hsquare : (v.b * v.b % n) ^ (v.e / 2) ≡ (v.b * v.b) ^ (v.e / 2) [MOD n] :=
    (Nat.mod_modEq _ _).pow _
  have hbits := Nat.div_add_mod v.e 2
  change (if v.e % 2 = 1 then v.r * v.b % n else v.r) * (v.b * v.b % n) ^ (v.e / 2) ≡
    v.r * v.b ^ v.e [MOD n]
  split
  next hodd =>
    rw [hodd] at hbits
    calc v.r * v.b % n * (v.b * v.b % n) ^ (v.e / 2)
        ≡ v.r * v.b * (v.b * v.b) ^ (v.e / 2) [MOD n] := (Nat.mod_modEq _ _).mul hsquare
      _ = v.r * v.b ^ (2 * (v.e / 2) + 1) := by ring
      _ = v.r * v.b ^ v.e := by rw [hbits]
  next heven =>
    rw [Nat.mod_two_ne_one.mp heven] at hbits
    calc v.r * (v.b * v.b % n) ^ (v.e / 2)
        ≡ v.r * (v.b * v.b) ^ (v.e / 2) [MOD n] := hsquare.mul_left _
      _ = v.r * v.b ^ (2 * (v.e / 2) + 0) := by ring
      _ = v.r * v.b ^ v.e := by rw [hbits]

theorem modexpPass_inv {g a n : Nat} {v : ModexpVars} (h : ModexpInv g a n v) :
    ModexpInv g a n (modexpPass n v) where
  power := (modexpPass_power n v).trans h.power
  r_lt := by
    have hn : 0 < n := Nat.zero_lt_of_lt h.r_lt
    simp only [modexpPass]
    split
    · exact Nat.mod_lt _ hn
    · exact h.r_lt
  b_lt := Nat.mod_lt _ (Nat.zero_lt_of_lt h.b_lt)

/-- Once the exponent is used up, the accumulator holds the power. -/
theorem ModexpInv.r_eq {g a n : Nat} {v : ModexpVars} (h : ModexpInv g a n v) (he : v.e = 0) :
    v.r = g ^ a % n := by
  rw [← h.power, he, Nat.pow_zero, Nat.mul_one, Nat.mod_eq_of_lt h.r_lt]

/-- With as many turns as the exponent the loop uses it up, and it ends with what every pass keeps. -/
theorem modexpLoop_induct {n : Nat} {P : ModexpVars → Prop} (hpass : ∀ v, P v → P (modexpPass n v)) :
    ∀ (turns : Nat) (v : ModexpVars), P v → v.e ≤ turns →
      P (modexpLoop n turns v) ∧ (modexpLoop n turns v).e = 0 := by
  intro turns
  induction turns with
  | zero => exact fun v hv hle => ⟨hv, Nat.le_zero.mp hle⟩
  | succ turns ih =>
    intro v hv hle
    rw [modexpLoop]
    split
    · exact ⟨hv, ‹_›⟩
    · have hfall : (modexpPass n v).e < v.e := Nat.div_lt_self (Nat.pos_of_ne_zero ‹_›) (by decide)
      exact ih _ (hpass v hv) (by omega)

/-- R131: the value of the kernel. -/
theorem modexpCore_eq (g a : Nat) {n : Nat} (hn : 0 < n) : modexpCore g a n = g ^ a % n := by
  obtain ⟨hinv, hend⟩ := modexpLoop_induct (P := ModexpInv g a n) (fun _ => modexpPass_inv) a
    (modexpStart g a n) (modexpStart_inv g a hn) le_rfl
  exact hinv.r_eq hend

/-! ### After a number of passes -/

theorem modexpAfter_inv (g a : Nat) {n : Nat} (hn : 0 < n) (k : Nat) :
    ModexpInv g a n (modexpAfter g a n k) :=
  Function.Iterate.rec (ModexpInv g a n) (modexpStart_inv g a hn) (fun _ => modexpPass_inv) k

/-- The exponent loses one bit per pass. -/
theorem modexpAfter_e (g a n k : Nat) : (modexpAfter g a n k).e = a / 2 ^ k := by
  induction k with
  | zero => exact (Nat.div_one a).symm
  | succ k ih =>
    rw [Nat.pow_succ, ← Nat.div_div_eq_div_mul, ← ih, modexpAfter, Function.iterate_succ_apply']
    rfl

/-- Settles O18: by the loop invariant, and the exponent `a / 2^k` after `k` passes. -/
theorem modexpCoreIsPowerModN : Obligations.ModexpCoreIsPowerModN := by
  intro g a n hn
  refine ⟨modexpCore_eq g a hn, rfl, fun v => rfl, fun ha => ha, fun ha k => ?_,
    fun k he => (modexpAfter_inv g a hn k).r_eq he⟩
  rw [modexpAfter_e, Nat.div_eq_zero_iff_lt (Nat.two_pow_pos k), ← Nat.log2_lt ha.ne', Nat.succ_le_iff]

/-- Settles O19: by the kernel's value, and `1 % n = 1` for `n` at least 2. -/
theorem modexpStartsAtOneModN : Obligations.ModexpStartsAtOneModN := by
  intro g a n hn
  refine ⟨modexpCore_eq g 0 hn, ?_, fun h2 => ?_⟩
  · rw [modexpCore_eq g a Nat.one_pos, Nat.mod_one]
  · rw [modexpCore, modexpStart, Nat.mod_eq_of_lt h2]

/-! ### The command -/

/-- A commit of R0 that fits the register (10_state.md R33, R61). -/
theorem commit_setBig_r0 {s : State} {x : Nat} (hx : x < s.params.bound) :
    commit (setBig .r0 x s) = committed s { s.big with r0 := x } s.status := by
  rw [setBig, Nat.mod_eq_of_lt hx]
  rfl

/-- Settles O20: by all that MODEXP can do; the power is below `n`, so no bit of it is lost in R0. -/
theorem modexpWritesPowerModN : Obligations.ModexpWritesPowerModN := by
  refine ⟨rfl, fun s hwf => ?_⟩
  have hn_lt : s.big.n < s.params.bound := getBig_lt hwf .n
  rcases execModexp_cases s with ⟨hn, e⟩ | ⟨hn, e⟩
  · exact ⟨fun _ => e, fun h => absurd hn h⟩
  · have hpos := Nat.pos_of_ne_zero hn
    refine ⟨fun h => absurd h hn, fun _ => e.trans ?_⟩
    rw [modexpCore_eq _ _ hpos, commit_setBig_r0 ((Nat.mod_lt _ hpos).trans hn_lt)]

/-- A positive power of a multiple of `n` is 0 modulo `n`. -/
theorem pow_mod_eq_zero {g a n : Nat} (hg : g % n = 0) (ha : 0 < a) : g ^ a % n = 0 := by
  rw [Nat.pow_mod, hg, Nat.zero_pow ha, Nat.zero_mod]

/-- The product of two values reduced modulo `n`. -/
theorem mul_le_sq_pred {x y n : Nat} (hx : x < n) (hy : y < n) : x * y ≤ (n - 1) ^ 2 := by
  rw [sq]
  exact Nat.mul_le_mul (Nat.le_pred_of_lt hx) (Nat.le_pred_of_lt hy)

/-- The bound of R133 on the internal products fits two registers. -/
theorem sq_pred_lt {p : Params} {n : Nat} (hn : n < p.bound) : (n - 1) ^ 2 < 2 ^ (2 * p.width) := by
  rw [Nat.mul_comm, Nat.pow_mul]
  exact Nat.pow_lt_pow_left ((Nat.pred_le n).trans_lt hn) (by decide)

/-- The completion of MODEXP, as far as R133 looks at it. -/
theorem exec_modexp_result {s : State} (hwf : s.big.wf s.params) (hn : s.big.n ≠ 0) :
    ∃ t, exec .modexp s = .next t ∧ sameOperands s t ∧
      t.big.r0 = s.big.a ^ s.big.b % s.big.n :=
  ⟨_, (modexpWritesPowerModN.2 s hwf).2 hn, ⟨rfl, rfl, rfl⟩, rfl⟩

/-- Settles O21: by the power that MODEXP commits, and the loop invariant for the products inside. -/
theorem modexpCornerCases : Obligations.ModexpCornerCases := by
  intro s hwf
  refine ⟨(modexpWritesPowerModN.2 s hwf).1, fun hn => ?_⟩
  obtain ⟨t, hexec, ⟨hta, htb, htn⟩, hr0⟩ := exec_modexp_result hwf hn
  refine ⟨t, hexec, hta, htb, htn, ?_⟩
  rw [hr0]
  refine ⟨fun h0 => ?_, fun h1 => ?_, Nat.pow_mod _ _ _, fun ha => pow_mod_eq_zero ?_,
    pow_mod_eq_zero, fun _ ha hb => pow_mod_eq_zero ?_ ?_, fun k => ?_⟩
  · rw [h0, Nat.pow_zero]
  · rw [h1, Nat.pow_one]
  · rw [ha, Nat.zero_mod]
  · rw [ha, Nat.mod_self]
  · rw [hb]
    exact Nat.pos_of_ne_zero hn
  · obtain ⟨-, hr, hb⟩ := modexpAfter_inv s.big.a s.big.b (Nat.pos_of_ne_zero hn) k
    exact ⟨mul_le_sq_pred hr hb, mul_le_sq_pred hb hb, sq_pred_lt (getBig_lt hwf .n)⟩

end Sys2Proof.Machine
end

section
/-! PROOF. The iteration of XGCD (41_xgcd.md R150 to R155): its passes one by one, how the first pass
decides the corner cases and the swap of R154, and the size of the results. -/

namespace Sys2Proof.Machine

open Sys2Proof.Statements

/-! ### After a number of passes -/

theorem xgcdAfter_succ (a b k : Nat) : xgcdAfter a b (k + 1) = xgcdPass (xgcdAfter a b k) :=
  Function.iterate_succ_apply' xgcdPass k _

theorem xgcdAfter_inv (a b k : Nat) : XgcdInv a b (xgcdAfter a b k) :=
  Function.Iterate.rec (XgcdInv a b) (xgcdStart_inv a b) (fun _ => xgcdPass_inv) k

theorem xgcdLoop_of_y_eq_zero {w : XgcdVars} (hy : w.y = 0) (turns : Nat) : xgcdLoop turns w = w := by
  cases turns with
  | zero => rfl
  | succ turns => exact if_pos hy

theorem xgcdLoop_of_y_ne_zero {w : XgcdVars} (hy : w.y ≠ 0) (turns : Nat) :
    xgcdLoop (turns + 1) w = xgcdLoop turns (xgcdPass w) := if_neg hy

/-- R152: the remainder falls in every pass. -/
theorem xgcdPass_y_lt {w : XgcdVars} (hy : w.y ≠ 0) : (xgcdPass w).y < w.y :=
  Nat.mod_lt _ (Nat.pos_of_ne_zero hy)

/-- With enough turns the loop is the iteration of its body up to the first `y = 0`. -/
theorem xgcdLoop_eq_iterate (turns : Nat) (w : XgcdVars) (hlt : w.y < turns) :
    ∃ k, (xgcdPass^[k] w).y = 0 ∧ (∀ j, j < k → (xgcdPass^[j] w).y ≠ 0) ∧
      xgcdLoop turns w = xgcdPass^[k] w := by
  induction turns generalizing w with
  | zero => exact absurd hlt (Nat.not_lt_zero _)
  | succ turns ih =>
    by_cases hy : w.y = 0
    · exact ⟨0, hy, fun _ hj => absurd hj (Nat.not_lt_zero _), xgcdLoop_of_y_eq_zero hy _⟩
    · have hfall := xgcdPass_y_lt hy
      obtain ⟨k, hend, hfirst, hloop⟩ := ih (xgcdPass w) (by omega)
      refine ⟨k + 1, hend, fun j hj => ?_, (xgcdLoop_of_y_ne_zero hy turns).trans hloop⟩
      cases j with
      | zero => exact hy
      | succ j => exact hfirst j (Nat.lt_of_succ_lt_succ hj)

/-- Settles O23: by the loop as an iteration up to its first `y = 0`. -/
theorem xgcdCoreIteratesToZero : Obligations.XgcdCoreIteratesToZero := by
  intro a b _
  refine ⟨rfl, xgcdAfter_succ a b, ?_⟩
  obtain ⟨k, hend, hfirst, hloop⟩ := xgcdLoop_eq_iterate (b + 1) (xgcdStart a b) (Nat.lt_succ_self b)
  refine ⟨k, hend, hfirst, ?_⟩
  rw [xgcdCore, hloop]
  rfl

/-- Settles O24: by the loop invariant, at the end and after every pass. -/
theorem xgcdCoreIsBezout : Obligations.XgcdCoreIsBezout := by
  intro a b hb
  refine ⟨xgcdCore_g a hb, xgcdCore_bezout a hb, xgcdCore_dvd a hb,
    fun k => (xgcdAfter_inv a b k).dvd_g, fun k hy => ?_⟩
  rw [xgcdAfter_succ]
  exact xgcdPass_y_lt hy

/-! ### No result is truncated -/

theorem one_lt_bound {p : Params} (hp : p.wf = true) : 1 < p.bound :=
  Nat.one_lt_two_pow (by have := (limbs_of_wf hp).1; unfold Params.width; omega)

theorem xgcdCore_g_lt (a : Nat) {b c : Nat} (hb : 0 < b) (hbc : b < c) : (xgcdCore a b).g < c := by
  rw [xgcdCore_g a hb]
  exact (Nat.gcd_le_right a hb).trans_lt hbc

theorem xgcdCore_u_lt (a : Nat) {b c : Nat} (hb : 0 < b) (hbc : b < c) :
    (xgcdCore a b).u.natAbs < c :=
  ((xgcdCore_u_le a hb).trans (Nat.div_le_self _ _)).trans_lt hbc

theorem xgcdCore_v_lt {a b c : Nat} (hb : 0 < b) (hac : a < c) (hc : 1 < c) :
    (xgcdCore a b).v.natAbs < c :=
  (xgcdCore_v_le a hb).trans_lt (max_lt hc ((Nat.div_le_self _ _).trans_lt hac))

/-- Settles O25: by the bounds of the loop invariant. -/
theorem xgcdCoefficientsFit : Obligations.XgcdCoefficientsFit := by
  intro p a b hp ha hb hpos
  exact ⟨le_max_of_le_right (xgcdCore_u_le a hpos), xgcdCore_v_le a hpos, xgcdCore_u_lt a hpos hb,
    xgcdCore_v_lt hpos ha (one_lt_bound hp)⟩

/-! ### The first pass -/

/-- The first pass moves `b` to `g` and leaves the remainder of `a`. -/
theorem xgcdPass_start (a b : Nat) :
    xgcdPass (xgcdStart a b) = { u := 0, g := b, x := 1, y := a % b } := by
  simp [xgcdPass, xgcdStart]

theorem xgcdEnd_eq (a : Nat) {b : Nat} (hb : 0 < b) :
    xgcdEnd a b = xgcdLoop b { u := 0, g := b, x := 1, y := a % b } := by
  rw [← xgcdPass_start]
  exact xgcdLoop_of_y_ne_zero hb.ne' b

/-- The kernel's triple, from the end of its loop. -/
theorem xgcdCore_of_end {a b : Nat} {w : XgcdVars} (h : xgcdEnd a b = w) :
    xgcdCore a b = { g := w.g, u := w.u, v := ((w.g : Int) - a * w.u) / b } := by
  rw [← h]
  rfl

/-- R157: the coefficient of `a` depends on `a` modulo `b` only, as the first pass reduces `a`. -/
theorem xgcdCore_u_mod (a : Nat) {b : Nat} (hb : 0 < b) : (xgcdCore (a % b) b).u = (xgcdCore a b).u := by
  have hend : xgcdEnd (a % b) b = xgcdEnd a b := by rw [xgcdEnd_eq _ hb, xgcdEnd_eq _ hb, Nat.mod_mod]
  exact congrArg XgcdVars.u hend

/-- R154: for a multiple of `b` the loop ends after its first pass. -/
theorem xgcdCore_of_dvd {a b : Nat} (hb : 0 < b) (hdvd : b ∣ a) :
    xgcdCore a b = { g := b, u := 0, v := 1 } := by
  have hend := xgcdEnd_eq a hb
  rw [xgcdLoop_of_y_eq_zero (Nat.mod_eq_zero_of_dvd hdvd)] at hend
  rw [xgcdCore_of_end hend, mul_zero, sub_zero, Int.ediv_self (Int.natCast_ne_zero.mpr hb.ne')]

/-! ### The swap of the operands -/

/-- `w` of the run on `(a, b)` and `w'` of the run on `(b, a)` stand at the same remainders, `w` with the
coefficients of `a` and `w'` with those of `b` (R154). -/
structure XgcdMirror (a b : Nat) (w w' : XgcdVars) : Prop where
  g_eq : w'.g = w.g
  y_eq : w'.y = w.y
  bezout_g : (a : Int) * w.u + b * w'.u = w.g
  bezout_y : (a : Int) * w.x + b * w'.x = w.y

theorem xgcdPass_mirror {a b : Nat} {w w' : XgcdVars} (h : XgcdMirror a b w w') :
    XgcdMirror a b (xgcdPass w) (xgcdPass w') where
  g_eq := h.y_eq
  y_eq := by simp only [xgcdPass, h.g_eq, h.y_eq]
  bezout_g := h.bezout_y
  bezout_y := by
    have hdiv : (w.y : Int) * (w.g / w.y : Nat) + (w.g % w.y : Nat) = w.g := by
      exact_mod_cast Nat.div_add_mod w.g w.y
    simp only [xgcdPass, h.g_eq, h.y_eq]
    linear_combination h.bezout_g - (w.g / w.y : Nat) * h.bezout_y - hdiv

theorem xgcdLoop_mirror {a b turns turns' : Nat} {w w' : XgcdVars} (h : XgcdMirror a b w w')
    (hlt : w.y < turns) (hlt' : w'.y < turns') :
    XgcdMirror a b (xgcdLoop turns w) (xgcdLoop turns' w') := by
  induction turns generalizing turns' w w' with
  | zero => exact absurd hlt (Nat.not_lt_zero _)
  | succ turns ih =>
    obtain _ | turns' := turns'
    · exact absurd hlt' (Nat.not_lt_zero _)
    by_cases hy : w.y = 0
    · rwa [xgcdLoop_of_y_eq_zero hy, xgcdLoop_of_y_eq_zero (h.y_eq.trans hy)]
    · have hy' : w'.y ≠ 0 := h.y_eq.trans_ne hy
      have hfall := xgcdPass_y_lt hy
      have hfall' := xgcdPass_y_lt hy'
      rw [xgcdLoop_of_y_ne_zero hy, xgcdLoop_of_y_ne_zero hy']
      exact ih (xgcdPass_mirror h) (by omega) (by omega)

/-- For `a < b` the run on `(a, b)` after its first pass mirrors the run on `(b, a)`. -/
theorem xgcdEnd_mirror {a b : Nat} (h : a < b) : XgcdMirror a b (xgcdEnd a b) (xgcdEnd b a) := by
  rw [xgcdEnd_eq a (Nat.zero_lt_of_lt h), Nat.mod_eq_of_lt h]
  refine xgcdLoop_mirror ⟨rfl, rfl, ?_, ?_⟩ h (Nat.lt_succ_self a) <;> simp [xgcdStart]

theorem xgcdCore_swap_of_lt {a b : Nat} (ha : 0 < a) (h : a < b) :
    xgcdCore b a = { g := (xgcdCore a b).g, u := (xgcdCore a b).v, v := (xgcdCore a b).u } := by
  obtain ⟨hg, -, hmirror, -⟩ := xgcdEnd_mirror h
  have hb : 0 < b := ha.trans h
  have hg : (xgcdCore b a).g = (xgcdCore a b).g := hg
  have hmirror : (a : Int) * (xgcdCore a b).u + b * (xgcdCore b a).u = (xgcdCore a b).g := hmirror
  have hab := xgcdCore_bezout a hb
  have hba := xgcdCore_bezout b ha
  have hu : (xgcdCore b a).u = (xgcdCore a b).v :=
    mul_left_cancel₀ (Int.natCast_ne_zero.mpr hb.ne') (by linarith)
  have hv : (xgcdCore b a).v = (xgcdCore a b).u :=
    mul_left_cancel₀ (Int.natCast_ne_zero.mpr ha.ne') (by linarith)
  rw [← hg, ← hu, ← hv]

/-- R154: swapping two different positive operands swaps the coefficients. -/
theorem xgcdCore_swap {a b : Nat} (ha : 0 < a) (hb : 0 < b) (hne : a ≠ b) :
    xgcdCore b a = { g := (xgcdCore a b).g, u := (xgcdCore a b).v, v := (xgcdCore a b).u } := by
  rcases Nat.lt_or_gt_of_ne hne with h | h
  · exact xgcdCore_swap_of_lt ha h
  · rw [xgcdCore_swap_of_lt hb h]

/-- R154: for a proper multiple of `a` on the right, by the swap. -/
theorem xgcdCore_of_dvd_right {a c : Nat} (ha : 0 < a) (hc : 2 ≤ c) :
    xgcdCore a (c * a) = { g := a, u := 1, v := 0 } := by
  have hlt : a < c * a := by nlinarith
  rw [xgcdCore_swap (ha.trans hlt) ha hlt.ne', xgcdCore_of_dvd ha (Nat.dvd_mul_left a c)]

end Sys2Proof.Machine
end

section
/-! PROOF. The commands XGCD (41_xgcd.md R151, R154) and MODINV (R156, R157): what they leave in every
case, and that the committed R0 of MODINV is the inverse. -/

namespace Sys2Proof.Machine

open Sys2Proof.Statements

/-! ### XGCD -/

/-- The commit of XGCD, when its results fit their registers (10_state.md R33, R61). -/
theorem commit_xgcdResults {s : State} {g : Nat} {u v : Int} (hg : g < s.params.bound)
    (hu : u.natAbs < s.params.bound) (hv : v.natAbs < s.params.bound) :
    commit (setNcop g (setSigns u v
        (setBig .r2 v.natAbs (setBig .r1 u.natAbs (setBig .r0 g s))))) =
      committed s { s.big with r0 := g, r1 := u.natAbs, r2 := v.natAbs }
        { s.status with usign := signOf u, vsign := signOf v, ncop := ncopOf g } := by
  simp only [setBig, Nat.mod_eq_of_lt hg, Nat.mod_eq_of_lt hu, Nat.mod_eq_of_lt hv]
  rfl

/-- Settles O26: by all that XGCD can do, and the bounds on its three results. -/
theorem xgcdWritesGcdAndCoefficients : Obligations.XgcdWritesGcdAndCoefficients := by
  refine ⟨rfl, fun s hp hwf => ?_⟩
  have ha_lt : s.big.a < s.params.bound := getBig_lt hwf .a
  have hb_lt : s.big.b < s.params.bound := getBig_lt hwf .b
  rcases execXgcd_cases s with ⟨hzero, e⟩ | ⟨hne, e⟩
  · exact ⟨fun _ => e, fun h => absurd hzero h⟩
  · have hb := Nat.pos_of_ne_zero hne
    refine ⟨fun h => absurd h hne, fun _ => e.trans ?_⟩
    rw [commit_xgcdResults (xgcdCore_g_lt _ hb hb_lt) (xgcdCore_u_lt _ hb hb_lt)
      (xgcdCore_v_lt hb ha_lt (one_lt_bound hp)), xgcdCore_g _ hb]
    rfl

theorem signOf_eq_false_of_eq_zero {c : Int} (h : c = 0) : signOf c = false := by
  rw [h]
  rfl

/-- Settles O28: by the first pass for multiples of `b`, the mirrored run for the swap, and all that XGCD
can do. -/
theorem xgcdCornerCases : Obligations.XgcdCornerCases := by
  intro a b
  refine ⟨fun hb => xgcdCore_of_dvd hb (dvd_zero b), fun ha => xgcdCore_of_dvd ha dvd_rfl,
    fun hb c _ => xgcdCore_of_dvd hb (Nat.dvd_mul_left b c), fun ha c hc => xgcdCore_of_dvd_right ha hc,
    xgcdCore_of_dvd Nat.one_pos (one_dvd a), fun h => ?_, xgcdCore_swap, fun s hzero => ?_,
    fun s hne => ?_⟩
  · exact (xgcdPass_start a b).trans (by rw [Nat.mod_eq_of_lt h])
  · exact (execXgcd_eq s).trans (if_pos hzero)
  · exact ⟨_, (execXgcd_eq s).trans (if_neg hne), signOf_eq_false_of_eq_zero,
      signOf_eq_false_of_eq_zero⟩

/-! ### MODINV -/

/-- The coefficient reduced modulo `n`, as the natural number that goes to R0. -/
theorem toNat_emod_cast (u : Int) {n : Nat} (hn : 0 < n) : ((u % n).toNat : Int) = u % n :=
  Int.toNat_of_nonneg (Int.emod_nonneg u (Int.natCast_ne_zero.mpr hn.ne'))

theorem toNat_emod_lt (u : Int) {n : Nat} (hn : 0 < n) : (u % n).toNat < n := by
  rw [Int.toNat_lt (Int.emod_nonneg u (Int.natCast_ne_zero.mpr hn.ne'))]
  exact Int.emod_lt_of_pos u (Int.natCast_pos.mpr hn)

/-- R157: for coprime operands the reduced coefficient is the inverse. -/
theorem mul_xgcdCore_u_mod {a n : Nat} (hn : 0 < n) (hgcd : Nat.gcd a n = 1) :
    a * ((xgcdCore a n).u % n).toNat % n = 1 % n := by
  have hinv : (a : Int) * (xgcdCore a n).u ≡ 1 [ZMOD n] := by
    have hdvd := xgcdCore_dvd a hn
    rw [xgcdCore_g a hn, hgcd] at hdvd
    exact Int.modEq_iff_dvd.mpr hdvd
  apply (Int.natCast_modEq_iff (n := n)).mp
  rw [Nat.cast_mul, toNat_emod_cast _ hn]
  exact ((Int.mod_modEq _ _).mul_left _).trans hinv

/-- Settles O29: by all that MODINV can do; the reduced coefficient is below `n`, so it fits R0. -/
theorem modinvWritesReducedCoefficient : Obligations.ModinvWritesReducedCoefficient := by
  refine ⟨rfl, fun s hwf => ?_⟩
  have hn_lt : s.big.n < s.params.bound := getBig_lt hwf .n
  have hgcd : s.big.n ≠ 0 → (xgcdCore s.big.a s.big.n).g = Nat.gcd s.big.a s.big.n := fun hn =>
    xgcdCore_g _ (Nat.pos_of_ne_zero hn)
  rcases execModinv_cases s with ⟨hn, e⟩ | ⟨hn, hg, e⟩ | ⟨hn, hg, e⟩
  · exact ⟨fun _ => e, fun h => absurd hn h, fun h => absurd hn h⟩
  · have hncop : ncopOf (xgcdCore s.big.a s.big.n).g = true := decide_eq_true hg
    refine ⟨fun h => absurd h hn, fun _ _ => e.trans ?_,
      fun _ h => absurd ((hgcd hn).trans h) hg⟩
    rw [setNcop, hncop]
    rfl
  · refine ⟨fun h => absurd h hn, fun _ h => absurd ((hgcd hn).symm.trans hg) h,
      fun _ _ => e.trans ?_⟩
    rw [hg, commit_setBig_r0 (s := setNcop 1 s) ((toNat_emod_lt _ (Nat.pos_of_ne_zero hn)).trans hn_lt)]
    rfl

/-- The completion of a MODINV of coprime operands, as far as R157 looks at it. -/
theorem exec_modinv_result {s : State} (hwf : s.big.wf s.params) (hn : s.big.n ≠ 0)
    (hgcd : Nat.gcd s.big.a s.big.n = 1) :
    ∃ t, exec .modinv s = .next t ∧
      t.big.r0 = ((xgcdCore s.big.a s.big.n).u % (s.big.n : Int)).toNat := by
  obtain ⟨-, -, hcommit⟩ := modinvWritesReducedCoefficient.2 s hwf
  exact ⟨_, hcommit hn hgcd, rfl⟩

/-- Settles O30: by what MODINV commits, the inverse, and the first pass, which reduces `e` modulo `m`. -/
theorem modinvGivesTheInverse : Obligations.ModinvGivesTheInverse := by
  intro s hwf
  obtain ⟨hzero, hnon, -⟩ := modinvWritesReducedCoefficient.2 s hwf
  have hgcd_mod : Nat.gcd s.big.a s.big.n = Nat.gcd (s.big.a % s.big.n) s.big.n := by
    rw [Nat.gcd_comm, Nat.gcd_rec]
  refine ⟨fun hn => ⟨hzero hn, rfl⟩, fun ha hn => ?_, fun hn hgcd => ?_, hgcd_mod, fun u => ?_⟩
  · have hne : Nat.gcd s.big.a s.big.n ≠ 1 := by
      rw [ha, Nat.gcd_zero_left]
      omega
    exact ⟨_, hnon (by omega) hne, rfl, rfl, rfl⟩
  · have hpos := Nat.pos_of_ne_zero hn
    obtain ⟨ha_lt, hrest⟩ := hwf
    obtain ⟨t, e, hr0⟩ := exec_modinv_result ⟨ha_lt, hrest⟩ hn hgcd
    have hlt := toNat_emod_lt (xgcdCore s.big.a s.big.n).u hpos
    obtain ⟨t', e', hr0'⟩ :=
      exec_modinv_result (s := { s with big := { s.big with a := s.big.a % s.big.n } })
        ⟨(Nat.mod_le _ _).trans_lt ha_lt, hrest⟩ hn (hgcd_mod.symm.trans hgcd)
    refine ⟨t, e, ?_⟩
    rw [hr0]
    refine ⟨hlt, mul_xgcdCore_u_mod hpos hgcd, fun h1 => by omega, toNat_emod_cast _ hpos, t', e', ?_⟩
    rw [hr0', xgcdCore_u_mod _ hpos]
  · rw [Int.natCast_mod]
    exact (Int.mod_modEq _ _).symm.mul_right u

end Sys2Proof.Machine
end

section
/-! PROOF. The kernels of the Miller-Rabin tester (42_miller_rabin.md R181, R182): what `DECOMP` returns, what
the squarings test, and the verdict of one witness. -/

namespace Sys2Proof.Machine

/-! ### DECOMP -/

/-- The loop of `DECOMP` takes the factors 2 out of `q` and counts them, and stops at the odd part. -/
theorem decompLoop_two_pow_mul {q : Nat} (hq : q % 2 = 1) (turns j k : Nat) (hk : k ≤ turns) :
    decompLoop turns { k := j, q := 2 ^ k * q } = { k := j + k, q := q } := by
  induction turns generalizing j k with
  | zero => simp [Nat.le_zero.mp hk, decompLoop]
  | succ turns ih =>
    cases k with
    | zero => simp [decompLoop, hq]
    | succ k =>
      have heven : 2 ^ (k + 1) * q % 2 = 0 := by rw [Nat.pow_succ', Nat.mul_assoc, Nat.mul_mod_right]
      have hhalf : 2 ^ (k + 1) * q / 2 = 2 ^ k * q := by
        rw [Nat.pow_succ', Nat.mul_assoc, Nat.mul_div_cancel_left _ (by decide)]
      rw [decompLoop, if_pos heven, hhalf, ih (j + 1) k (Nat.le_of_succ_le_succ hk), Nat.add_right_comm,
        Nat.add_assoc]

/-- R182: on `2^k * q` with `q` odd, `DECOMP` returns `(k, q)`. -/
theorem decomp_two_pow_mul (k : Nat) {q : Nat} (hq : q % 2 = 1) :
    decomp (2 ^ k * q) = { k := k, q := q } := by
  have hk : k ≤ 2 ^ k * q :=
    Nat.lt_two_pow_self.le.trans (Nat.le_mul_of_pos_right _ (by omega))
  have hloop := decompLoop_two_pow_mul hq (2 ^ k * q) 0 k hk
  rwa [Nat.zero_add] at hloop

/-- Settles O31: `m` is some `2^k * q` with `q` odd, and on every such form `DECOMP` returns its `k` and `q`. -/
theorem decompIsUnique : Obligations.DecompIsUnique := by
  intro m hm
  obtain ⟨k, q, hodd, rfl⟩ := Nat.exists_eq_two_pow_mul_odd (Nat.ne_of_gt hm)
  have hq : q % 2 = 1 := Nat.odd_iff.mp hodd
  rw [decomp_two_pow_mul k hq]
  refine ⟨rfl, hq, fun heven => Nat.pos_of_ne_zero fun (hk : k = 0) => ?_, fun k' q' hm' hq' => ?_⟩
  · simp [hk, hq] at heven
  · have hdecomp := decomp_two_pow_mul k' hq'
    rw [← hm', decomp_two_pow_mul k hq] at hdecomp
    cases hdecomp
    exact ⟨rfl, rfl⟩

/-! ### The verdict of one witness -/

/-- Steps 5 and 6 of R181: the `k` values tested against `n - 1` are the repeated squares of `b`, the first
of them `b` itself. -/
theorem squareTest_eq_false_iff (n k b : Nat) :
    squareTest n k (b % n) = false ↔ ∃ i, i < k ∧ b ^ 2 ^ i % n = n - 1 := by
  induction k generalizing b with
  | zero => simp [squareTest]
  | succ k ih =>
    have hsquares : ∀ i, (b * b) ^ 2 ^ i = b ^ 2 ^ (i + 1) := fun i => by
      rw [← sq, ← Nat.pow_mul, ← Nat.pow_succ']
    have hfirst : b ^ 2 ^ 0 = b := Nat.pow_one b
    simp only [Nat.exists_lt_succ_left, hfirst, ← hsquares]
    rw [squareTest, ← Nat.mul_mod]
    split
    next hx => exact iff_of_true rfl (.inl hx)
    next hx => rw [ih, or_iff_right hx]

/-- Step 1 of R181, even candidates. -/
theorem mrWitness_of_even {n : Nat} (hn : n % 2 = 0) (a : Nat) : mrWitness n a = true := if_pos hn

/-- Step 1 of R181, candidates that share a proper factor with the witness. -/
theorem mrWitness_of_common_factor {n a : Nat} (hodd : n % 2 = 1) (hlo : 1 < Nat.gcd a n)
    (hhi : Nat.gcd a n < n) : mrWitness n a = true := by
  rw [mrWitness, if_neg (by omega), xgcdCore_g a (by omega), if_pos ⟨hlo, hhi⟩]

/-- Steps 2 to 6 of R181 on an odd `n` of at least 3, as one condition on the powers of the witness. -/
theorem mrWitness_eq_false_iff {n a k q : Nat} (hodd : n % 2 = 1)
    (hgcd : ¬ (1 < Nat.gcd a n ∧ Nat.gcd a n < n)) (hn : n - 1 = 2 ^ k * q) (hq : q % 2 = 1) :
    mrWitness n a = false ↔
      a ^ q % n = 1 ∨ ∃ i, i < k ∧ a ^ (2 ^ i * q) % n = n - 1 := by
  have hpos : 0 < n := by omega
  have hpow : ∀ i, a ^ (2 ^ i * q) = (a ^ q) ^ 2 ^ i := fun i => by rw [Nat.mul_comm, Nat.pow_mul]
  rw [mrWitness, if_neg (by omega), xgcdCore_g a hpos, if_neg hgcd, hn, decomp_two_pow_mul k hq]
  simp only [modexpCore_eq a q hpos, hpow, ← hn, ← squareTest_eq_false_iff]
  split
  next hx => exact iff_of_true rfl (.inl hx)
  next hx => exact (or_iff_right hx).symm

/-- Settles O32: by the three paths of the kernel; `n - 1` is even, so `k` is at least 1. -/
theorem mrWitnessIsTheStrongTest : Obligations.MrWitnessIsTheStrongTest := by
  intro n a hne
  refine ⟨fun heven => mrWitness_of_even heven a, mrWitness_of_common_factor,
    fun hodd hgcd k q hn hq => ⟨Nat.pos_of_ne_zero fun hk => ?_, mrWitness_eq_false_iff hodd hgcd hn hq⟩⟩
  rw [hk, Nat.pow_zero, Nat.one_mul] at hn
  omega

end Sys2Proof.Machine
end

section
/-! PROOF. The commands MRW (42_miller_rabin.md R183) and MRPP (R185): what MRW leaves, and what MRPP does
before it has drawn a witness. -/

namespace Sys2Proof.Machine

open Sys2Proof.Statements

/-- Settles O34: by all that MRW can do. -/
theorem mrwWritesVerdict : Obligations.MrwWritesVerdict := by
  refine ⟨rfl, fun s => ?_⟩
  rcases execMrw_cases s with ⟨hn, e⟩ | ⟨hn, e⟩
  · exact ⟨fun _ => e, fun h => absurd hn h⟩
  · exact ⟨fun h => absurd h hn, fun _ => e⟩

/-! ### MRPP before its first witness -/

theorem execMrpp_of_lt_two {s : State} (hn : s.big.n < 2) :
    execMrpp s = .next (mrppVerdict true 0 s) := by
  rw [execMrpp_eq, if_pos hn]

theorem execMrpp_of_two_or_three {s : State} (hn : s.big.n = 2 ∨ s.big.n = 3) :
    execMrpp s = .next (mrppVerdict false 0 s) := by
  rw [execMrpp_eq, if_neg (by omega), if_pos hn]

theorem execMrpp_of_even {s : State} (hn : 4 ≤ s.big.n) (heven : s.big.n % 2 = 0) :
    execMrpp s = .next (mrppVerdict true 0 s) := by
  rw [execMrpp_eq, if_neg (by omega), if_neg (by omega), if_pos heven]

/-- The first engine step on an odd candidate of at least 5 enters the round loop (R184). -/
theorem execMrpp_of_no_answer {s : State} (hn : 5 ≤ s.big.n) (hodd : s.big.n % 2 = 1)
    (hans : s.engine.answer = none) : execMrpp s = .next (mrppNextRound s) := by
  rw [execMrpp_eq, if_neg (by omega), if_neg (by omega), if_neg (by omega), hans]

/-- The first request of a freshly accepted MRPP (R185). -/
theorem mrppNextRound_freshlyAccepted {s : State} (h : freshlyAccepted s) :
    mrppNextRound s =
      { s with
        engine :=
          { phase := .busy, request := some { lo := 2, hi := s.big.n - 1 }, answer := none,
            drawn := 0 } } := by
  rcases mrppNextRound_cases s with ⟨-, e⟩ | ⟨hlast, -⟩
  · rw [e, drawWitness, h]
  · rw [h] at hlast
    exact absurd hlast (by decide)

/-- Settles O36: by the branches of MRPP on its candidate, and the head of its loop with nothing drawn. -/
theorem mrppOnSmallAndEvenCandidates : Obligations.MrppOnSmallAndEvenCandidates := by
  refine fun s => ⟨fun hn => ?_, fun hn => ?_, fun hn heven => ?_, fun hn hodd hfresh => ⟨?_, by omega⟩⟩
  · exact execMrpp_of_lt_two (by omega)
  · exact execMrpp_of_two_or_three hn
  · exact execMrpp_of_even hn heven
  · have hans : s.engine.answer = none := congrArg Engine.answer hfresh
    exact (execMrpp_of_no_answer hn hodd hans).trans
      (congrArg _ (mrppNextRound_freshlyAccepted hfresh))

end Sys2Proof.Machine
end

section
/-! PROOF. The interrupt output (60_exceptions.md R217, R219): `irq` follows CTRL.IE and DONE_P, and a step sets
DONE_P only at a completion. -/

namespace Sys2Proof.Machine

theorem irq_iff (s : State) : irq s = true ↔ s.ctrlIe = true ∧ s.intStatus.doneP = true :=
  Bool.and_eq_true_iff

/-! ### The host and the witness source never set DONE_P -/

theorem doneP_of_memWrite {off : Nat} {v : Word} {s : State}
    (h : (memWrite off v s).intStatus.doneP = true) : s.intStatus.doneP = true := by
  rcases memWrite_cases off v s with e | ⟨-, -, e⟩ | ⟨-, -, e⟩ | ⟨-, e⟩ | ⟨-, -, e⟩ | ⟨-, -, e⟩ |
    ⟨r, i, -, -, -, -, e⟩ <;> rw [e] at h
  · exact h
  · cases h
  · exact h
  · exact Bool.and_elim_left h
  · exact h
  · exact h
  · rwa [setBig_intStatus] at h

theorem doneP_of_serve {t : BusTxn} {s : State} (h : (serve t s).intStatus.doneP = true) :
    s.intStatus.doneP = true := by
  rcases serve_cases t s with ⟨resp, f, e⟩ | ⟨off, v, -, -, -, -, e⟩ <;> rw [e] at h
  · exact h
  · exact doneP_of_memWrite h

theorem doneP_of_hostStep {s : State} (h : (hostStep s).intStatus.doneP = true) :
    s.intStatus.doneP = true := by
  rcases hostStep_cases s with ⟨ha, r, f, e⟩ | ⟨off, w, ha, -, -, e⟩ <;> rw [e] at h
  · exact h
  · exact doneP_of_serve h

theorem deliver_intStatus (a : Nat) (s : State) : (deliver a s).intStatus = s.intStatus := by
  unfold deliver
  split <;> rfl

theorem doneP_of_releaseReset {s : State} (h : (releaseReset s).intStatus.doneP = true) :
    s.intStatus.doneP = true := by
  rcases releaseReset_cases s with e | ⟨-, -, -, hint, -⟩
  · rwa [e] at h
  · rw [hint] at h
    cases h

/-! ### DONE_P is set at a completion alone -/

/-- After the engine's turn DONE_P is 1 only where it was, or where the command in progress completed. -/
theorem doneP_of_engineStep {s t : State} (h : engineStep s = .next t)
    (hdone : t.intStatus.doneP = true) :
    s.intStatus.doneP = true ∨ (s.engine.phase = .busy ∧ t.engine.phase = .idle) := by
  have hbusy : engineReady s = true → s.engine.phase = .busy := fun hr => ((engineReady_iff s).mp hr).1
  rcases engineStep_cases s with ⟨-, e⟩ | ⟨hr, -, e⟩ | ⟨i, hr, -, e⟩
  · cases e.symm.trans h
    exact .inl hdone
  · cases e.symm.trans h
    exact .inr ⟨hbusy hr, rfl⟩
  · rw [e] at h
    rcases exec_cases i s with ⟨r0, r1, r2, st, e⟩ | ⟨-, -, -, -, e⟩ <;> cases e.symm.trans h
    · exact .inr ⟨hbusy hr, rfl⟩
    · exact .inl hdone

/-- After a step DONE_P is 1 only where it was, or where the step completed a command (10_state.md R51). -/
theorem doneP_of_step {s s' : State} (h : step s = .next s') (hdone : s'.intStatus.doneP = true) :
    s.intStatus.doneP = true ∨ (s.engine.phase = .busy ∧ s'.engine.phase = .idle) := by
  rcases step_cases h with ⟨-, he⟩ | ⟨t, -, rfl⟩ | ⟨t, -, hb, he⟩ | ⟨-, rfl⟩ | ⟨a, -, rfl⟩ |
    ⟨-, rfl⟩ | ⟨-, rfl⟩ | ⟨-, rfl⟩
  · exact doneP_of_engineStep (s := s.popped) he hdone
  · exact .inl (doneP_of_serve (s := s.popped) hdone)
  · rcases doneP_of_engineStep he hdone with hserved | ⟨-, hidle⟩
    · exact .inl (doneP_of_serve (s := s.popped) hserved)
    · exact .inr ⟨hb, hidle⟩
  · exact .inl (doneP_of_hostStep (s := s.popped) hdone)
  · rw [deliver_intStatus] at hdone
    exact .inl hdone
  · exact .inl hdone
  · cases hdone
  · exact .inl (doneP_of_releaseReset (s := s.popped) hdone)

/-- Settles O52: a step after which DONE_P is 1 completed a command, or found DONE_P at 1; in the second case
`irq` was 0 for want of IE. -/
theorem irqIsEnabledCompletion : Obligations.IrqIsEnabledCompletion := by
  refine ⟨fun s => ⟨irq_iff s, fun v hsrst hie hdone => ?_, fun v hv => ?_⟩,
    fun s s' h hlow hhigh => ?_⟩
  · rw [(ctrlWrites s v).2.2 hsrst]
    exact (irq_iff _).mpr ⟨hie, hdone⟩
  · rw [memWrite_intStatus, irq, clearInt_intStatus, hv]
    simp [writeOneToClear]
  · obtain ⟨hie', hdone'⟩ := (irq_iff s').mp hhigh
    rcases doneP_of_step h hdone' with hdone | ⟨hbusy, hidle⟩
    · have hie : s.ctrlIe = false := eq_false_of_ne_true fun hie =>
        absurd ((irq_iff s).mpr ⟨hie, hdone⟩) (ne_true_of_eq_false hlow)
      exact .inr ⟨hie, hie', hdone⟩
    · exact .inl ⟨hbusy, hidle, hdone'⟩

end Sys2Proof.Machine
end

section
/-! PROOF. A command as a byte string (30_encoding.md R110, 20_memory.md R86): the byte decoder and the encoder
agree. -/

namespace Sys2Proof.Machine

/-! ### The lanes of a word -/

theorem wordOfLanes_laneOf (w : Word) :
    wordOfLanes (laneOf w 0) (laneOf w 1) (laneOf w 2) (laneOf w 3) = w := by
  simp only [wordOfLanes, laneOf, BitVec.extractLsb'_append_extractLsb'_eq_extractLsb']
  exact BitVec.extractLsb'_eq_self

/-- A lane of a word of lanes, with the width written as the lanes add it up: the laws of `++` need it so. -/
theorem laneOf_wordOfLanes (l0 l1 l2 l3 : Byte) (j : Nat) :
    laneOf (wordOfLanes l0 l1 l2 l3) j =
      (l3 ++ (l2 ++ (l1 ++ l0)) : BitVec (8 + (8 + (8 + 8)))).extractLsb' (8 * j) 8 := rfl

theorem bytesOfWord_wordOfLanes (l0 l1 l2 l3 : Byte) :
    bytesOfWord (wordOfLanes l0 l1 l2 l3) = [l0, l1, l2, l3] := by
  simp (disch := decide) only [bytesOfWord, laneOf_wordOfLanes, BitVec.extractLsb'_append_eq_of_le,
    BitVec.extractLsb'_append_eq_of_add_le]
  simp

/-! ### The byte decoder -/

/-- On the bytes of a word the byte decoder is the decoder of words. -/
theorem decodeBytes_bytesOfWord_append (w : Word) (rest : List Byte) :
    decodeBytes (bytesOfWord w ++ rest) = (decodeCmd w).map fun i => (i, rest) := by
  simp [bytesOfWord, decodeBytes, wordOfLanes_laneOf]

/-- A string that decodes begins with the bytes of a word. -/
theorem eq_bytesOfWord_append_of_decodeBytes {bytes : List Byte} {x : Instr × List Byte}
    (h : decodeBytes bytes = .ok x) : ∃ w rest, bytes = bytesOfWord w ++ rest := by
  unfold decodeBytes at h
  split at h
  next l0 l1 l2 l3 rest =>
    exact ⟨wordOfLanes l0 l1 l2 l3, rest, by rw [bytesOfWord_wordOfLanes]; rfl⟩
  next => cases h

/-- Settles O2: a string that decodes is a word and a rest, and the word decodes exactly when it is the
command's. -/
theorem decodeBytesAgreesWithEncode : Obligations.DecodeBytesAgreesWithEncode := by
  refine fun bytes i rest _ => ⟨fun h => ?_, fun h => ?_⟩
  · obtain ⟨w, tail, rfl⟩ := eq_bytesOfWord_append_of_decodeBytes h
    rw [decodeBytes_bytesOfWord_append] at h
    cases hdec : decodeCmd w with
    | error e =>
      rw [hdec] at h
      cases h
    | ok j =>
      rw [hdec] at h
      cases h
      rw [eq_encode_of_decodeCmd hdec, encodeBytes]
  · rw [h, encodeBytes, decodeBytes_bytesOfWord_append, decodeCmd_encode]
    rfl

/-- Settles O3: by evaluation of the decoder, the encoder and the assembler on the words and names written
out. -/
theorem patternWordsDecode : Obligations.PatternWordsDecode := by
  unfold Obligations.PatternWordsDecode
  decide

end Sys2Proof.Machine
end

section
/-! PROOF. The invariant of the machine (Safety.lean): it holds at reset, every agent keeps it, and so does every
step. -/

namespace Sys2Proof.Machine

open Sys2Proof.Statements

/-! ### What every agent keeps, every step keeps -/

/-- `P` does not look at the host, the response, the free values or the script: the parts of the state that are
not the block's. -/
def BlockOnly (P : State → Prop) : Prop :=
  ∀ (s : State) (h : HostAgent) (resp : BusResponse) (f : Nat) (script : List Event),
    P s → P { s with host := h, response := resp, fresh := f, script := script }

/-- The induction over the agents of 00_scope.md R19: what speaks of the block alone, and is kept by a host
write, an answer, the engine's turn and the events of the reset input, is kept by every step. -/
structure KeptByAgents (P : State → Prop) : Prop where
  block : BlockOnly P
  write : ∀ (s : State) (off : Nat) (v : Word), s.resetLine = false → P s → P (memWrite off v s)
  answer : ∀ (s : State) (a : Nat), P s → P (deliver a s)
  engine : ∀ s t : State, P s → engineStep s = .next t → P t
  reset : ∀ s t : State, t.params = s.params → t.blockAtReset → P s → P t

theorem KeptByAgents.serve {P : State → Prop} (hP : KeptByAgents P) (t : BusTxn) {s : State} (h : P s) :
    P (serve t s) := by
  rcases serve_cases t s with ⟨resp, f, e⟩ | ⟨off, v, hr, -, -, -, e⟩ <;> rw [e]
  · exact hP.block s s.host resp f s.script h
  · exact hP.block _ _ .written _ _ (hP.write s off v hr h)

theorem KeptByAgents.hostStep {P : State → Prop} (hP : KeptByAgents P) {s : State} (h : P s) :
    P (hostStep s) := by
  rcases hostStep_cases s with ⟨ha, resp, f, e⟩ | ⟨off, w, ha, -, -, e⟩ <;> rw [e]
  · exact hP.block s ha resp f s.script h
  · exact hP.block _ ha _ _ _ (hP.serve _ h)

theorem KeptByAgents.releaseReset {P : State → Prop} (hP : KeptByAgents P) {s : State} (h : P s) :
    P (releaseReset s) := by
  unfold Machine.releaseReset
  split
  · exact hP.reset s _ rfl ⟨rfl, rfl, rfl, rfl, rfl, rfl⟩ h
  · exact h

theorem KeptByAgents.step {P : State → Prop} (hP : KeptByAgents P) {s s' : State} (h : P s)
    (hstep : step s = .next s') : P s' := by
  have hpop : P s.popped := hP.block s _ _ _ _ h
  rcases step_cases hstep with ⟨-, he⟩ | ⟨t, -, rfl⟩ | ⟨t, -, -, he⟩ | ⟨-, rfl⟩ | ⟨a, -, rfl⟩ |
    ⟨-, rfl⟩ | ⟨-, rfl⟩ | ⟨-, rfl⟩
  · exact hP.engine _ _ hpop he
  · exact hP.serve t hpop
  · exact hP.engine _ _ (hP.serve t hpop) he
  · exact hP.hostStep hpop
  · exact hP.answer _ a hpop
  · exact hpop
  · exact hP.reset s.popped _ rfl (assertReset_blockAtReset _) hpop
  · exact hP.releaseReset hpop

/-! ### The invariant at reset -/

/-- A block at its reset values meets the invariant, whatever the agents around it do. -/
theorem inv_of_blockAtReset {s : State} (hp : s.params.wf = true) (h : s.blockAtReset) : s.Inv := by
  have hreset := h
  obtain ⟨hbig, -, hst, -, -, heng⟩ := h
  have hphase : s.engine.phase ≠ .busy := by
    rw [heng]
    decide
  exact {
    params := hp
    regs := by rw [hbig]; exact reset_wf s.params
    err := by simp [State.errMatchesCode, hst, State.atReset]
    busyErr := fun hb => absurd hb hphase
    idle := fun _ => heng
    request := by simp [State.requestIsMrpp, heng, Engine.atRest]
    answer := by simp [State.answerIsMrpp, heng, Engine.atRest]
    none_drawn := fun _ _ => by rw [heng]; rfl
    wcnt := by simp [State.wcntInRange, hst, State.atReset]
    held := fun _ => hreset }

theorem zeroHasNoSign_of_blockAtReset {s : State} (h : s.blockAtReset) : s.zeroHasNoSign := by
  obtain ⟨-, -, hst, -⟩ := h
  simp [State.zeroHasNoSign, hst, State.atReset]

theorem atReset_blockAtReset (p : Params) : (State.atReset p).blockAtReset :=
  ⟨rfl, rfl, rfl, rfl, rfl, rfl⟩

/-- Settles O7: the state after reset is a block at its reset values. -/
theorem resetMeetsInvariant : Obligations.ResetMeetsInvariant := by
  have hall : ∀ p : Params, p.wf = true → (State.atReset p).Inv ∧ (State.atReset p).zeroHasNoSign :=
    fun p hp => ⟨inv_of_blockAtReset hp (atReset_blockAtReset p),
      zeroHasNoSign_of_blockAtReset (atReset_blockAtReset p)⟩
  exact ⟨hall, hall Params.default (by decide)⟩

/-! ### The invariant and the agents -/

theorem blockOnly_inv : BlockOnly State.Inv := fun _ _ _ _ _ h =>
  { params := h.params, regs := h.regs, err := h.err, busyErr := h.busyErr, idle := h.idle,
    request := h.request, answer := h.answer, none_drawn := h.none_drawn, wcnt := h.wcnt,
    held := h.held }

theorem phase_idle_of_ne_busy {s : State} (h : s.engine.phase ≠ .busy) : s.engine.phase = .idle := by
  cases hp : s.engine.phase with
  | idle => rfl
  | busy => exact absurd hp h

/-- The block that is at work is out of reset. -/
theorem State.Inv.resetLine_of_busy {s : State} (h : s.Inv) (hb : s.engine.phase = .busy) :
    s.resetLine = false := by
  refine eq_false_of_ne_true fun hr => ?_
  obtain ⟨-, -, -, -, -, heng⟩ := h.held hr
  rw [heng] at hb
  cases hb

/-- A change of CTRL and INT_STATUS alone, out of reset. -/
theorem State.Inv.with_control {s : State} (h : s.Inv) (hr : s.resetLine = false) (ie : Bool)
    (int : IntStatus) : State.Inv { s with ctrlIe := ie, intStatus := int } :=
  { params := h.params, regs := h.regs, err := h.err, busyErr := h.busyErr, idle := h.idle,
    request := h.request, answer := h.answer, none_drawn := h.none_drawn, wcnt := h.wcnt,
    held := fun hr' => absurd hr' (ne_true_of_eq_false hr) }

theorem State.Inv.accept {s : State} (h : s.Inv) (hr : s.resetLine = false) (w : Word) :
    (accept w s).Inv :=
  { params := h.params
    regs := h.regs
    err := by simp [State.errMatchesCode]
    busyErr := fun _ => ⟨rfl, rfl⟩
    idle := fun hidle => by cases hidle
    request := by simp [State.requestIsMrpp, Engine.atRest]
    answer := by simp [State.answerIsMrpp, Engine.atRest]
    none_drawn := fun _ _ => rfl
    wcnt := h.wcnt
    held := fun hr' => absurd hr' (ne_true_of_eq_false hr) }

theorem State.Inv.setBig {s : State} (h : s.Inv) (hr : s.resetLine = false)
    (hidle : s.engine.phase = .idle) (r : BigReg) (x : Nat) : (setBig r x s).Inv := by
  have heng := h.idle hidle
  exact {
    params := by rw [setBig_params]; exact h.params
    regs := by rw [setBig_params]; exact setBig_wf h.regs r x
    err := by rw [State.errMatchesCode, setBig_status]; exact h.err
    busyErr := by rw [State.busyWithoutError, setBig_status, setBig_engine]; exact h.busyErr
    idle := by rw [State.idleAtRest, setBig_engine]; exact h.idle
    request := by simp [State.requestIsMrpp, heng, Engine.atRest]
    answer := by simp [State.answerIsMrpp, heng, Engine.atRest]
    none_drawn := by rw [State.freshHasDrawnNothing, setBig_engine]; exact h.none_drawn
    wcnt := by rw [State.wcntInRange, setBig_status]; exact h.wcnt
    held := fun hr' => absurd ((setBig_resetLine s r x).symm.trans hr') (ne_true_of_eq_false hr) }

theorem State.Inv.memWrite {s : State} (h : s.Inv) (hr : s.resetLine = false) (off : Nat) (v : Word) :
    (memWrite off v s).Inv := by
  rcases memWrite_cases off v s with e | ⟨-, -, e⟩ | ⟨-, -, e⟩ | ⟨-, e⟩ | ⟨-, -, e⟩ | ⟨-, -, e⟩ |
    ⟨r, i, hb, -, -, -, e⟩ <;> rw [e]
  · exact h
  · exact inv_of_blockAtReset h.params (resetBlock_blockAtReset s)
  · exact h.with_control hr _ _
  · exact h.with_control hr _ _
  · exact h.with_control hr _ _
  · exact h.accept hr v
  · exact h.setBig hr (phase_idle_of_ne_busy hb) r _

/-- The answer to a request is that of one of the rounds 1 to 20 (20_memory.md R97). -/
theorem State.Inv.deliver {s : State} (h : s.Inv) (a : Nat) : (deliver a s).Inv := by
  cases hreq : s.engine.request with
  | none => rwa [deliver_none s a hreq]
  | some r =>
    obtain ⟨hdrawing, -, -, hdrawn⟩ := h.request r hreq
    rw [deliver_some s a hreq]
    exact {
      params := h.params
      regs := h.regs
      err := h.err
      busyErr := h.busyErr
      idle := fun hidle => absurd (hdrawing.1.symm.trans hidle) (by decide)
      request := by simp [State.requestIsMrpp]
      answer := fun _ _ => ⟨hdrawing, rfl, Nat.le_add_left 1 _, hdrawn⟩
      none_drawn := fun _ hans => by cases hans
      wcnt := h.wcnt
      held := fun hr => absurd (h.resetLine_of_busy hdrawing.1) (ne_false_of_eq_true hr) }

/-! ### The invariant and the engine's turn -/

/-- A command keeps the registers in canonical form (10_state.md R33). -/
theorem exec_big_wf {i : Instr} {s t : State} (hwf : s.big.wf s.params) (h : exec i s = .next t) :
    t.big.wf s.params := by
  cases i with
  | modexp =>
    rcases execModexp_cases s with ⟨-, e⟩ | ⟨-, e⟩ <;> cases e.symm.trans h
    · exact hwf
    · exact setBig_wf hwf _ _
  | xgcd =>
    rcases execXgcd_cases s with ⟨-, e⟩ | ⟨-, e⟩ <;> cases e.symm.trans h
    · exact hwf
    · exact setBig_wf (setBig_wf (setBig_wf hwf _ _) _ _) _ _
  | modinv =>
    rcases execModinv_cases s with ⟨-, e⟩ | ⟨-, -, e⟩ | ⟨-, -, e⟩ <;> cases e.symm.trans h
    · exact hwf
    · exact hwf
    · exact setBig_wf (s := setNcop _ s) hwf _ _
  | mrw =>
    rcases execMrw_cases s with ⟨-, e⟩ | ⟨-, e⟩ <;> cases e.symm.trans h <;> exact hwf
  | mrpp =>
    rcases execMrpp_cases s with ⟨b, -, e⟩ | ⟨-, -, ⟨a, -, -, e⟩ | ⟨a, -, -, -, -, e⟩ |
      ⟨-, ⟨-, e⟩ | ⟨-, e⟩⟩⟩ <;> cases e.symm.trans h <;> exact hwf

/-- A command leaves ERR and ERRCODE, or ends in an error completion (60_exceptions.md R210, R212). -/
theorem exec_error {i : Instr} {s t : State} (h : exec i s = .next t) :
    (t.status.err = s.status.err ∧ t.status.errcode = s.status.errcode) ∨
    ∃ u c, c ≠ .none ∧ t = raiseCmdError c u := by
  cases i with
  | modexp =>
    rcases execModexp_cases s with ⟨-, e⟩ | ⟨-, e⟩ <;> cases e.symm.trans h
    · exact .inr ⟨s, .divZero, by decide, rfl⟩
    · exact .inl ⟨rfl, rfl⟩
  | xgcd =>
    rcases execXgcd_cases s with ⟨-, e⟩ | ⟨-, e⟩ <;> cases e.symm.trans h
    · exact .inr ⟨s, .divZero, by decide, rfl⟩
    · exact .inl ⟨rfl, rfl⟩
  | modinv =>
    rcases execModinv_cases s with ⟨-, e⟩ | ⟨-, -, e⟩ | ⟨-, -, e⟩ <;> cases e.symm.trans h
    · exact .inr ⟨s, .divZero, by decide, rfl⟩
    · exact .inr ⟨_, .nonCoprime, by decide, rfl⟩
    · exact .inl ⟨rfl, rfl⟩
  | mrw =>
    rcases execMrw_cases s with ⟨-, e⟩ | ⟨-, e⟩ <;> cases e.symm.trans h
    · exact .inr ⟨s, .range, by decide, rfl⟩
    · exact .inl ⟨rfl, rfl⟩
  | mrpp =>
    rcases execMrpp_cases s with ⟨b, -, e⟩ | ⟨-, -, ⟨a, -, -, e⟩ | ⟨a, -, -, -, -, e⟩ |
      ⟨-, ⟨-, e⟩ | ⟨-, e⟩⟩⟩ <;> cases e.symm.trans h
    · exact .inl ⟨rfl, rfl⟩
    · exact .inr ⟨s, .rng, by decide, rfl⟩
    · exact .inl ⟨rfl, rfl⟩
    · exact .inl ⟨rfl, rfl⟩
    · exact .inl ⟨rfl, rfl⟩

theorem mrppVerdict_wcntInRange {n : Nat} (hn : n ≤ mrRounds) (b : Bool) (s : State) :
    (mrppVerdict b n s).wcntInRange := by
  have hle : (BitVec.ofNat 5 n).toNat ≤ n := by
    rw [BitVec.toNat_ofNat]
    exact Nat.mod_le _ _
  exact hle.trans hn

/-- WCNT after a command is as before, or the count of a verdict, which is at most 20 (10_state.md R50). -/
theorem exec_wcntInRange {i : Instr} {s t : State} (hw : s.wcntInRange) (ha : s.answerIsMrpp)
    (h : exec i s = .next t) : t.wcntInRange := by
  obtain ⟨-, -, -, -, -, hrow⟩ := exec_changesOnlyRow h
  by_cases hsame : t.status.wcnt = s.status.wcnt
  · rwa [State.wcntInRange, hsame]
  obtain rfl := hrow hsame
  rcases execMrpp_cases s with ⟨b, -, e⟩ | ⟨-, -, ⟨a, -, -, e⟩ | ⟨a, hans, -, -, -, e⟩ |
    ⟨-, ⟨-, e⟩ | ⟨-, e⟩⟩⟩ <;> cases e.symm.trans h
  · exact mrppVerdict_wcntInRange (Nat.zero_le _) b s
  · exact hw
  · obtain ⟨-, -, -, hdrawn⟩ := ha a hans
    exact mrppVerdict_wcntInRange hdrawn true s
  · exact hw
  · exact mrppVerdict_wcntInRange le_rfl false s

/-- A command in progress that ends leaves the engine at rest. -/
theorem State.Inv.complete {s : State} (h : s.Inv) (hb : s.engine.phase = .busy) {g : BigRegs}
    {st : Status} (hg : g.wf s.params) (hst : st.err = true ↔ st.errcode ≠ .none)
    (hw : st.wcnt.toNat ≤ mrRounds) : (complete { s with big := g, status := st }).Inv :=
  { params := h.params
    regs := hg
    err := hst
    busyErr := fun hb' => by cases hb'
    idle := fun _ => rfl
    request := by simp [State.requestIsMrpp, Engine.atRest]
    answer := by simp [State.answerIsMrpp, Engine.atRest]
    none_drawn := fun _ _ => rfl
    wcnt := hw
    held := fun hr => absurd (h.resetLine_of_busy hb) (ne_false_of_eq_true hr) }

/-- The next request of MRPP. -/
theorem State.Inv.drawWitness {s : State} (h : s.Inv) (hdrawing : s.drawing)
    (hdrawn : s.engine.drawn < mrRounds) : (drawWitness 2 (s.big.n - 1) s).Inv :=
  { params := h.params
    regs := h.regs
    err := h.err
    busyErr := h.busyErr
    idle := fun hidle => absurd (hdrawing.1.symm.trans hidle) (by decide)
    request := fun r hr => ⟨hdrawing, (Option.some.inj hr).symm, rfl, hdrawn⟩
    answer := by simp [State.answerIsMrpp]
    none_drawn := fun hreq => by cases hreq
    wcnt := h.wcnt
    held := fun hr => absurd (h.resetLine_of_busy hdrawing.1) (ne_false_of_eq_true hr) }

theorem errMatchesCode_of_exec {i : Instr} {s t : State} (hs : s.errMatchesCode)
    (h : exec i s = .next t) : t.errMatchesCode := by
  rcases exec_error h with ⟨herr, hcode⟩ | ⟨u, c, hc, rfl⟩
  · rwa [State.errMatchesCode, herr, hcode]
  · exact ⟨fun _ => hc, fun _ => rfl⟩

theorem State.Inv.exec {i : Instr} {s t : State} (h : s.Inv) (hb : s.engine.phase = .busy)
    (hcmd : s.cmd = encode i) (hexec : exec i s = .next t) : t.Inv := by
  have hwf := exec_big_wf h.regs hexec
  have herr := errMatchesCode_of_exec h.err hexec
  have hwcnt := exec_wcntInRange h.wcnt h.answer hexec
  rcases exec_cases i s with ⟨r0, r1, r2, st, e⟩ | ⟨rfl, hn, hodd, hdrawn, e⟩ <;>
    cases e.symm.trans hexec
  · exact h.complete hb hwf herr hwcnt
  · exact h.drawWitness ⟨hb, hcmd, hodd, hn⟩ hdrawn

theorem State.Inv.engineStep {s t : State} (h : s.Inv) (hturn : engineStep s = .next t) : t.Inv := by
  have hbusy : engineReady s = true → s.engine.phase = .busy := fun hr => ((engineReady_iff s).mp hr).1
  rcases engineStep_cases s with ⟨-, e⟩ | ⟨hr, -, e⟩ | ⟨i, hr, hdec, e⟩
  · cases e.symm.trans hturn
    exact h
  · cases e.symm.trans hturn
    exact h.complete (hbusy hr) h.regs (iff_of_true rfl fun hc => nomatch hc) h.wcnt
  · exact h.exec (hbusy hr) (eq_encode_of_decodeCmd hdec) (e.symm.trans hturn)

theorem inv_keptByAgents : KeptByAgents State.Inv where
  block := blockOnly_inv
  write _ off v hr h := h.memWrite hr off v
  answer _ a h := h.deliver a
  engine _ _ h hturn := h.engineStep hturn
  reset _ _ hp ht h := inv_of_blockAtReset (hp ▸ h.params) ht

/-- Settles O8: every agent keeps the invariant. -/
theorem stepKeepsInvariant : Obligations.StepKeepsInvariant :=
  fun _ _ h hstep => inv_keptByAgents.step h hstep

end Sys2Proof.Machine
end

section
/-! PROOF. The sign bits of the Bézout coefficients (10_state.md R36): a step keeps the sign of a zero coefficient
at 0. It rests on the coefficient bound of 41_xgcd.md R155. -/

namespace Sys2Proof.Machine

open Sys2Proof.Statements

theorem zeroHasNoSign_of_sameResults {s t : State} (hs : s.zeroHasNoSign) (h : sameResults s t) :
    t.zeroHasNoSign := by
  obtain ⟨-, h1, h2, -, -, hu, hv, -⟩ := h
  rwa [State.zeroHasNoSign, h1, h2, hu, hv]

/-- A host write leaves the results, or resets the block (10_state.md R37). -/
theorem memWrite_results (off : Nat) (v : Word) (s : State) :
    sameResults s (memWrite off v s) ∨ (memWrite off v s).blockAtReset := by
  rcases memWrite_cases off v s with e | ⟨-, -, e⟩ | ⟨-, -, e⟩ | ⟨-, e⟩ | ⟨-, -, e⟩ | ⟨-, -, e⟩ |
    ⟨r, i, -, hw, -, -, e⟩ <;> rw [e]
  · exact .inl (sameResults_of_eq rfl rfl)
  · exact .inr (resetBlock_blockAtReset s)
  · exact .inl (sameResults_of_eq rfl rfl)
  · exact .inl (sameResults_of_eq rfl rfl)
  · exact .inl (sameResults_of_eq rfl rfl)
  · exact .inl ⟨rfl, rfl, rfl, rfl, rfl, rfl, rfl, rfl⟩
  · exact .inl (sameResults_setBig hw _ s)

/-- XGCD alone writes signs, and no coefficient that is not 0 is stored as 0 (41_xgcd.md R155). -/
theorem zeroHasNoSign_of_exec {i : Instr} {s t : State} (hp : s.params.wf = true)
    (hwf : s.big.wf s.params) (hs : s.zeroHasNoSign) (h : exec i s = .next t) : t.zeroHasNoSign := by
  obtain ⟨-, hmag, hsign, -⟩ := exec_changesOnlyRow h
  by_cases hi : i = .xgcd
  · subst hi
    by_cases hb : s.big.b = 0
    · cases ((xgcdWritesGcdAndCoefficients.2 s hp hwf).1 hb).symm.trans h
      exact hs
    · obtain ⟨u, e, -, -, -, h1, h2⟩ := signMagnitudeReadsBack s hp hwf hb
      cases e.symm.trans h
      exact ⟨fun hu h0 => absurd (h1 h0) (ne_false_of_eq_true hu),
        fun hv h0 => absurd (h2 h0) (ne_false_of_eq_true hv)⟩
  · have hmag := not_or.mp (mt hmag hi)
    have hsign := not_or.mp (mt hsign hi)
    rwa [State.zeroHasNoSign, not_not.mp hmag.1, not_not.mp hmag.2, not_not.mp hsign.1,
      not_not.mp hsign.2]

/-- The invariant with the sign property beside it, so that one is at hand where the other is kept. -/
def State.InvSigned (s : State) : Prop := s.Inv ∧ s.zeroHasNoSign

theorem invSigned_keptByAgents : KeptByAgents State.InvSigned where
  block s h resp f script hs := ⟨blockOnly_inv s h resp f script hs.1, hs.2⟩
  write s off v hr hs := ⟨hs.1.memWrite hr off v,
    (memWrite_results off v s).elim (zeroHasNoSign_of_sameResults hs.2) zeroHasNoSign_of_blockAtReset⟩
  answer s a hs := ⟨hs.1.deliver a, by
    obtain ⟨hbig, hst⟩ := deliver_big_status a s
    exact zeroHasNoSign_of_sameResults hs.2 (sameResults_of_eq hbig hst)⟩
  engine s t hs hturn := by
    refine ⟨hs.1.engineStep hturn, ?_⟩
    rcases engineStep_cases s with ⟨-, e⟩ | ⟨-, -, e⟩ | ⟨i, -, -, e⟩
    · cases e.symm.trans hturn
      exact hs.2
    · cases e.symm.trans hturn
      exact hs.2
    · exact zeroHasNoSign_of_exec hs.1.params hs.1.regs hs.2 (e.symm.trans hturn)
  reset s t hp ht hs := ⟨inv_of_blockAtReset (hp ▸ hs.1.params) ht, zeroHasNoSign_of_blockAtReset ht⟩

/-- Settles O9: every agent keeps the sign property, beside the invariant, which bounds the coefficients. -/
theorem stepKeepsZeroUnsigned : Obligations.StepKeepsZeroUnsigned := by
  intro s s' hinv hsign hstep
  obtain ⟨-, h⟩ := invSigned_keptByAgents.step ⟨hinv, hsign⟩ hstep
  exact h

end Sys2Proof.Machine
end

section
/-! PROOF. A step always goes on, to a state with the same parameters (00_scope.md R10, log 17). -/

namespace Sys2Proof.Machine

theorem exec_total (i : Instr) (s : State) : ∃ t, exec i s = .next t := by
  rcases exec_cases i s with ⟨_, _, _, _, e⟩ | ⟨-, -, -, -, e⟩ <;> exact ⟨_, e⟩

theorem engineStep_total (s : State) : ∃ t, engineStep s = .next t := by
  rcases engineStep_cases s with ⟨-, e⟩ | ⟨-, -, e⟩ | ⟨i, -, -, e⟩
  · exact ⟨s, e⟩
  · exact ⟨_, e⟩
  · rw [e]
    exact exec_total i s

theorem perform_total (e : Event) (s : State) : ∃ t, perform e s = .next t := by
  cases e with
  | engine => exact engineStep_total s
  | busAndEngine t =>
    simp only [perform, serveWithEngine]
    split
    · exact engineStep_total _
    · exact ⟨_, rfl⟩
  | bus _ | host | answer _ | staleAnswer _ | assertReset | releaseReset => exact ⟨_, rfl⟩

theorem step_total (s : State) : ∃ t, step s = .next t := by
  cases hs : s.script with
  | nil =>
    rw [step_nil hs]
    exact engineStep_total s
  | cons e rest =>
    rw [step_cons hs]
    exact perform_total e _

theorem memWrite_params (off : Nat) (v : Word) (s : State) : (memWrite off v s).params = s.params := by
  rcases memWrite_cases off v s with e | ⟨-, -, e⟩ | ⟨-, -, e⟩ | ⟨-, e⟩ | ⟨-, -, e⟩ | ⟨-, -, e⟩ |
    ⟨r, i, -, -, -, -, e⟩ <;> simp [e]

theorem deliver_params (a : Nat) (s : State) : (deliver a s).params = s.params := by
  unfold deliver
  split <;> rfl

theorem engineStep_params {s t : State} (h : engineStep s = .next t) : t.params = s.params := by
  rcases engineStep_cases s with ⟨-, e⟩ | ⟨-, -, e⟩ | ⟨i, -, -, e⟩
  · cases e.symm.trans h
    rfl
  · cases e.symm.trans h
    rfl
  · exact (exec_frame (e.symm.trans h)).1

theorem params_keptByAgents (p : Params) : KeptByAgents fun s => s.params = p where
  block _ _ _ _ _ h := h
  write s off v _ h := (memWrite_params off v s).trans h
  answer s a h := (deliver_params a s).trans h
  engine _ _ h hturn := (engineStep_params hturn).trans h
  reset _ _ ht _ h := ht.trans h

/-- Settles O10: every outcome of an event is a next state, and every agent keeps the parameters. -/
theorem stepAlwaysGoesOn : Obligations.StepAlwaysGoesOn := by
  intro s
  obtain ⟨t, h⟩ := step_total s
  exact ⟨t, h, (params_keptByAgents s.params).step rfl h⟩

end Sys2Proof.Machine
end

section
/-! PROOF. What one step performs (log 2): the engine's turn, a transaction, an answer, the events of the reset
input; a block in reset (70_reset_and_hazards.md R240, R241) and a block at rest (60_exceptions.md R228). -/

namespace Sys2Proof.Machine

open Sys2Proof.Statements

/-! ### The events -/

/-- Settles O4: the engine that may move runs the command whose word is in CMD. -/
theorem engineTurnRunsDecodedCommand : Obligations.EngineTurnRunsDecodedCommand := by
  intro s i hdec _ hbusy hreq
  have hcmd := eq_encode_of_decodeCmd hdec
  have hready := (engineReady_iff s).mpr ⟨hbusy, hreq⟩
  refine ⟨fun hs => ?_, fun rest hs => ?_⟩
  · rw [step_nil hs, engineStep_encode hcmd hready]
  · rw [step_cons hs, perform_engine]
    exact engineStep_encode hcmd hready

/-- Settles O5: a step performs the head of the script, and a transaction elsewhere is not the block's. -/
theorem stepPerformsOneEvent : Obligations.StepPerformsOneEvent := by
  refine fun s rest => ⟨fun t hs => step_cons hs, fun hs => step_cons hs, fun v hs => step_cons hs,
    fun hs => step_cons hs, fun hs => step_cons hs, fun hs => step_cons hs, step_nil,
    fun t hs hr haddr => ?_⟩
  exact (step_cons hs).trans (congrArg _ (serve_elsewhere (s := { s with script := rest }) hr haddr))

/-- Settles O41: an answer is delivered to the outstanding request, or to none. -/
theorem answersGoToTheOutstandingRequest : Obligations.AnswersGoToTheOutstandingRequest := by
  refine fun s a rest => ⟨fun r hs hreq => ?_, fun hs hreq => ?_, fun hs => step_cons hs⟩
  · exact (step_cons hs).trans (congrArg _ (deliver_some { s with script := rest } a hreq))
  · exact (step_cons hs).trans (congrArg _ (deliver_none { s with script := rest } a hreq))

/-! ### Reset -/

/-- The soft reset, as the whole state it leaves. -/
theorem serve_softReset {s : State} {v : Word} (hv : v.getLsbD 1 = true) (hr : s.resetLine = false) :
    serve (writeAt s 0x008 v) s =
      { State.atReset s.params with
        response := .written, fresh := s.fresh, script := s.script, host := s.host } := by
  rw [serve_writeAt v hr (by decide) (by decide), memWrite_ctrl_srst hv, resetBlock, hr]
  rfl

/-- The engine's turn on a block at its reset values. -/
theorem engineStep_eq_of_blockAtReset {s : State} (h : s.blockAtReset) : engineStep s = .next s := by
  obtain ⟨t, ht⟩ := engineStep_total s
  rw [ht, engineStep_of_blockAtReset h ht]

/-- Settles O53: the write leaves the reset state, and the engine's turn after it finds no command. -/
theorem softResetAbortsCommand : Obligations.SoftResetAbortsCommand := by
  intro s v a rest hv hr
  refine ⟨serve_softReset hv hr, deliver_none _ a rfl, rfl, fun hs => ?_⟩
  have hserve : serve (writeAt s 0x008 v) { s with script := rest } = _ :=
    serve_softReset (s := { s with script := rest }) hv hr
  rw [step_cons hs, perform, serveWithEngine, hserve]
  split
  · exact engineStep_eq_of_blockAtReset ⟨rfl, rfl, rfl, rfl, rfl, rfl⟩
  · rfl

theorem serve_in_reset {s : State} (hr : s.resetLine = true) (t : BusTxn) :
    serve t s = { s with response := .notServed } := by
  rw [serve, if_pos hr]

/-- In reset a host line changes nothing of the block. -/
theorem hostStep_blockAtReset {s : State} (hr : s.resetLine = true) (h : s.blockAtReset) :
    (hostStep s).blockAtReset := by
  rcases hostStep_cases s with ⟨ha, resp, f, e⟩ | ⟨off, w, ha, -, -, e⟩
  · rw [e]
    exact h
  · rw [e, serve_in_reset hr]
    exact h

/-- A block held in reset keeps its reset values in every step (70_reset_and_hazards.md R240). -/
theorem step_blockAtReset {s s' : State} (hr : s.resetLine = true) (h : s.blockAtReset)
    (hstep : step s = .next s') : s'.blockAtReset := by
  have hpop : s.popped.blockAtReset := h
  rcases step_cases hstep with ⟨-, he⟩ | ⟨t, -, rfl⟩ | ⟨t, -, -, he⟩ | ⟨-, rfl⟩ | ⟨a, -, rfl⟩ |
    ⟨-, rfl⟩ | ⟨-, rfl⟩ | ⟨-, rfl⟩
  · rw [engineStep_of_blockAtReset hpop he]
    exact hpop
  · rw [serve_in_reset (s := s.popped) hr]
    exact hpop
  · rw [serve_in_reset (s := s.popped) hr] at he
    rw [engineStep_of_blockAtReset (s := { s.popped with response := .notServed }) hpop he]
    exact hpop
  · exact hostStep_blockAtReset hr hpop
  · obtain ⟨-, -, -, -, -, heng⟩ := h
    rw [deliver_none s.popped a (by rw [show s.popped.engine = Engine.atRest from heng]; rfl)]
    exact hpop
  · exact hpop
  · exact assertReset_blockAtReset s.popped
  · rcases releaseReset_cases s.popped with e | hreset
    · rw [e]
      exact hpop
    · exact hreset

/-- Settles O54: both events set the block to its reset values, and in reset no agent moves it from them. -/
theorem hardwareResetHoldsTheBlock : Obligations.HardwareResetHoldsTheBlock := by
  refine fun s rest => ⟨fun hs => step_cons hs, fun hs hr => ?_, fun t hr => serve_in_reset hr t,
    fun s' hr h hstep => step_blockAtReset hr h hstep⟩
  rw [step_cons hs, perform, releaseReset, if_pos (show _ from hr)]
  rfl

/-! ### Rest -/

/-- An engine that is not busy does nothing in its turn (10_state.md R60). -/
theorem engineStep_of_not_busy {s : State} (h : s.engine.phase ≠ .busy) : engineStep s = .next s := by
  rcases engineStep_cases s with ⟨-, e⟩ | ⟨hr, -⟩ | ⟨i, hr, -⟩
  · exact e
  · exact absurd ((engineReady_iff s).mp hr).1 h
  · exact absurd ((engineReady_iff s).mp hr).1 h

/-- Settles O55: at rest the engine's turn does nothing, and an answer finds no request. -/
theorem idleBlockKeepsItsState : Obligations.IdleBlockKeepsItsState := by
  intro s heng
  have hphase : s.engine.phase ≠ .busy := by
    rw [heng]
    decide
  have hreq : s.engine.request = none := by rw [heng]
  refine ⟨fun hs => ?_, fun e rest hs he => ?_⟩
  · rw [step_nil hs, engineStep_of_not_busy hphase]
  · rw [step_cons hs]
    rcases he with rfl | ⟨a, rfl | rfl⟩
    · exact engineStep_of_not_busy (s := { s with script := rest }) hphase
    · exact congrArg _ (deliver_none { s with script := rest } a hreq)
    · rfl

end Sys2Proof.Machine
end

section
/-! PROOF. The inputs of a command (10_state.md R34, R55): what it does is one effect, made of the parameters and
the operands of its row. -/

namespace Sys2Proof.Machine

open Sys2Proof.Statements

/-! ### The effects of the shared operations -/

/-- The effect of a commit with no result (10_state.md R61). -/
def commitEffect : Effect where
  r0 := none
  r1 := none
  r2 := none
  comp := none
  ncop := none
  usign := none
  vsign := none
  wcnt := none
  error := none
  engine := Engine.atRest
  completes := true

/-- The effect of `raise CmdError(c)` (60_exceptions.md R212). -/
def errorEffect (c : ErrCode) : Effect := { commitEffect with error := some c }

/-- The effect of a verdict of MRPP (42_miller_rabin.md R184). -/
def verdictEffect (verdict : Bool) (count : Nat) : Effect :=
  { commitEffect with comp := some verdict, wcnt := some (BitVec.ofNat 5 count) }

/-- The effect of `draw_witness(lo, hi)` from the engine state `g` (20_memory.md R97). -/
def drawEffect (lo hi : Nat) (g : Engine) : Effect :=
  { commitEffect with
    engine := { g with request := some { lo := lo, hi := hi }, answer := none }, completes := false }

/-! ### The effect of each command, from its operands -/

def modexpEffect (p : Params) (g a n : Nat) : Effect :=
  if n = 0 then errorEffect .divZero else { commitEffect with r0 := some (modexpCore g a n % p.bound) }

theorem exec_modexp_eq_apply (s : State) :
    exec .modexp s = .next ((modexpEffect s.params s.big.a s.big.b s.big.n).apply s) := by
  rw [exec, execModexp_eq, modexpEffect]
  split <;> rfl

def xgcdEffect (p : Params) (a b : Nat) : Effect :=
  if b = 0 then errorEffect .divZero
  else
    { commitEffect with
      r0 := some ((xgcdCore a b).g % p.bound)
      r1 := some ((xgcdCore a b).u.natAbs % p.bound)
      r2 := some ((xgcdCore a b).v.natAbs % p.bound)
      usign := some (signOf (xgcdCore a b).u)
      vsign := some (signOf (xgcdCore a b).v)
      ncop := some (ncopOf (xgcdCore a b).g) }

theorem exec_xgcd_eq_apply (s : State) :
    exec .xgcd s = .next ((xgcdEffect s.params s.big.a s.big.b).apply s) := by
  rw [exec, execXgcd_eq, xgcdEffect]
  split <;> rfl

def modinvEffect (p : Params) (e m : Nat) : Effect :=
  if m = 0 then errorEffect .divZero
  else if (xgcdCore e m).g ≠ 1 then
    { errorEffect .nonCoprime with ncop := some (ncopOf (xgcdCore e m).g) }
  else
    { commitEffect with
      r0 := some (((xgcdCore e m).u % (m : Int)).toNat % p.bound)
      ncop := some (ncopOf (xgcdCore e m).g) }

theorem exec_modinv_eq_apply (s : State) :
    exec .modinv s = .next ((modinvEffect s.params s.big.a s.big.n).apply s) := by
  rw [exec, execModinv_eq, modinvEffect]
  split
  · rfl
  · split <;> rfl

def mrwEffect (n a : Nat) : Effect :=
  if n = 1 then errorEffect .range else { commitEffect with comp := some (mrWitness n a) }

theorem exec_mrw_eq_apply (s : State) :
    exec .mrw s = .next ((mrwEffect s.big.n s.big.a).apply s) := by
  rw [exec, execMrw_eq, mrwEffect]
  split <;> rfl

/-- The effect of the head of MRPP's loop, from its engine state. -/
def nextRoundEffect (n : Nat) (g : Engine) : Effect :=
  if g.drawn < mrRounds then drawEffect 2 (n - 1) g else verdictEffect false mrRounds

theorem mrppNextRound_eq_apply (s : State) :
    mrppNextRound s = (nextRoundEffect s.big.n s.engine).apply s := by
  rw [mrppNextRound_eq, nextRoundEffect]
  split <;> rfl

/-- The effect of the body of MRPP's loop on the witness `a`. -/
def testEffect (n a : Nat) (g : Engine) : Effect :=
  if a < 2 ∨ n - 2 < a then errorEffect .rng
  else if mrWitness n a = true then verdictEffect true g.drawn
  else nextRoundEffect n g

theorem mrppTest_eq_apply (a : Nat) (s : State) :
    mrppTest a s = (testEffect s.big.n a s.engine).apply s := by
  rw [mrppTest_eq, testEffect]
  split
  · rfl
  · split
    · rfl
    · exact mrppNextRound_eq_apply s

def mrppEffect (n : Nat) (g : Engine) : Effect :=
  if n < 2 then verdictEffect true 0
  else if n = 2 ∨ n = 3 then verdictEffect false 0
  else if n % 2 = 0 then verdictEffect true 0
  else g.answer.elim (nextRoundEffect n g) fun a => testEffect n a g

theorem exec_mrpp_eq_apply (s : State) :
    exec .mrpp s = .next ((mrppEffect s.big.n s.engine).apply s) := by
  rw [exec, execMrpp_eq, mrppEffect]
  split
  · rfl
  split
  · rfl
  split
  · rfl
  cases s.engine.answer with
  | none => exact congrArg _ (mrppNextRound_eq_apply s)
  | some a => exact congrArg _ (mrppTest_eq_apply a s)

/-- Settles O17: the effect of each command is made from the operands of its row. -/
theorem commandsReadOnlyTheirOperands : Obligations.CommandsReadOnlyTheirOperands := by
  intro i s
  cases i with
  | modexp =>
    refine ⟨modexpEffect s.params s.big.a s.big.b s.big.n, ?_⟩
    rintro u ⟨hp, ha, hb, hn⟩
    rw [exec_modexp_eq_apply, hp, ha, hb, hn]
  | xgcd =>
    refine ⟨xgcdEffect s.params s.big.a s.big.b, ?_⟩
    rintro u ⟨hp, ha, hb⟩
    rw [exec_xgcd_eq_apply, hp, ha, hb]
  | modinv =>
    refine ⟨modinvEffect s.params s.big.a s.big.n, ?_⟩
    rintro u ⟨hp, ha, hn⟩
    rw [exec_modinv_eq_apply, hp, ha, hn]
  | mrw =>
    refine ⟨mrwEffect s.big.n s.big.a, ?_⟩
    rintro u ⟨-, hn, ha⟩
    rw [exec_mrw_eq_apply, hn, ha]
  | mrpp =>
    refine ⟨mrppEffect s.big.n s.engine, ?_⟩
    rintro u ⟨-, hn, heng⟩
    rw [exec_mrpp_eq_apply, hn, heng]

end Sys2Proof.Machine
end

section
/-! PROOF. What number theory says of the kernels: RSA decryption undoes encryption (40_modexp.md R134), and a
prime has no Miller-Rabin witness (42_miller_rabin.md R188). -/

namespace Sys2Proof.Machine

/-! ### RSA -/

/-- Fermat, with any positive exponent that is 1 modulo `p - 1`. -/
theorem pow_modEq_self_of_prime {p k : Nat} (hp : p.Prime) (hpos : 0 < k) (hk : k ≡ 1 [MOD p - 1])
    (m : Nat) : m ^ k ≡ m [MOD p] := by
  obtain ⟨j, hj⟩ := (Nat.modEq_iff_dvd' hpos).mp hk.symm
  have hk' : k = (p - 1) * j + 1 := by omega
  rw [hk', Nat.pow_succ, Nat.pow_mul]
  by_cases hdvd : p ∣ m
  · have hzero : m ≡ 0 [MOD p] := (Nat.modEq_zero_iff_dvd).mpr hdvd
    calc (m ^ (p - 1)) ^ j * m ≡ (m ^ (p - 1)) ^ j * 0 [MOD p] := hzero.mul_left _
      _ ≡ m [MOD p] := hzero.symm
  · have hfermat : m ^ (p - 1) ≡ 1 [MOD p] := by
      rw [← Nat.totient_prime hp]
      exact Nat.ModEq.pow_totient ((Nat.Prime.coprime_iff_not_dvd hp).mpr hdvd).symm
    calc (m ^ (p - 1)) ^ j * m ≡ 1 ^ j * m [MOD p] := (hfermat.pow j).mul_right m
      _ = m := by rw [Nat.one_pow, Nat.one_mul]

/-- Two exponentiations by the kernel are one with the product of the exponents. -/
theorem modexpCore_modexpCore (m e d : Nat) {n : Nat} (hn : 0 < n) :
    modexpCore (modexpCore m e n) d n = m ^ (e * d) % n := by
  rw [modexpCore_eq _ d hn, modexpCore_eq m e hn, ← Nat.pow_mod, Nat.pow_mul]

/-- Settles O22: the exponent `e * d` is 1 modulo `p - 1` and modulo `q - 1`, so the power is `m` modulo both
primes. -/
theorem rsaRoundTrip : Obligations.RsaRoundTrip := by
  intro p q e d m hp hq hne hlcm hm hpos
  have hed : e * d ≡ 1 [MOD Nat.lcm (p - 1) (q - 1)] := hlcm
  have hmodp := pow_modEq_self_of_prime hp hpos (hed.of_dvd (Nat.dvd_lcm_left _ _)) m
  have hmodq := pow_modEq_self_of_prime hq hpos (hed.of_dvd (Nat.dvd_lcm_right _ _)) m
  have hcoprime : Nat.Coprime p q := (Nat.coprime_primes hp hq).mpr hne
  have hmod : m ^ (e * d) ≡ m [MOD p * q] :=
    (Nat.modEq_and_modEq_iff_modEq_mul hcoprime).mp ⟨hmodp, hmodq⟩
  rw [modexpCore_modexpCore m e d (Nat.zero_lt_of_lt hm), hmod, Nat.mod_eq_of_lt hm]

/-! ### Square roots of 1 modulo a prime -/

/-- In a field, a `2^k`-th root of 1 is 1, or one of its first `k` repeated squares is -1. -/
theorem eq_one_or_sq_eq_neg_one {F : Type} [Field F] {x : F} {k : Nat} (h : x ^ 2 ^ k = 1) :
    x = 1 ∨ ∃ i, i < k ∧ x ^ 2 ^ i = -1 := by
  induction k with
  | zero => exact .inl (by rwa [Nat.pow_zero, pow_one] at h)
  | succ k ih =>
    rw [Nat.pow_succ, pow_mul, sq] at h
    rcases mul_self_eq_one_iff.mp h with h1 | h1
    · exact (ih h1).imp_right fun ⟨i, hi, e⟩ => ⟨i, by omega, e⟩
    · exact .inr ⟨k, Nat.lt_succ_self k, h1⟩

theorem mod_eq_one_of_cast {n x : Nat} (hn : 1 < n) (h : (x : ZMod n) = 1) : x % n = 1 := by
  rw [← Nat.cast_one, ZMod.natCast_eq_natCast_iff] at h
  exact Eq.trans h (Nat.mod_eq_of_lt hn)

theorem mod_eq_pred_of_cast {n x : Nat} (hn : 1 < n) (h : (x : ZMod n) = -1) : x % n = n - 1 := by
  have hpred : ((n - 1 : Nat) : ZMod n) = -1 := by
    rw [Nat.cast_sub hn.le, ZMod.natCast_self, Nat.cast_one, zero_sub]
  rw [← hpred, ZMod.natCast_eq_natCast_iff] at h
  exact Eq.trans h (Nat.mod_eq_of_lt (by omega))

/-- Settles O33: by Fermat `a^q` is a `2^k`-th root of 1, and a prime has no root of 1 but 1 and -1. -/
theorem primesHaveNoWitness : Obligations.PrimesHaveNoWitness := by
  intro n a hn h2 hdvd
  have : Fact n.Prime := ⟨hn⟩
  have hodd : n % 2 = 1 := hn.eq_two_or_odd.resolve_left h2
  have hgcd : Nat.gcd a n = 1 := ((Nat.Prime.coprime_iff_not_dvd hn).mpr hdvd).symm
  obtain ⟨k, q, hq, hkq⟩ := Nat.exists_eq_two_pow_mul_odd (n := n - 1) (by have := hn.two_le; omega)
  have hroot : ((a : ZMod n) ^ q) ^ 2 ^ k = 1 := by
    rw [← pow_mul, Nat.mul_comm, ← hkq]
    exact ZMod.pow_card_sub_one_eq_one (by rwa [Ne, ZMod.natCast_eq_zero_iff])
  rw [mrWitness_eq_false_iff hodd (by omega) hkq (Nat.odd_iff.mp hq)]
  refine (eq_one_or_sq_eq_neg_one hroot).imp (fun h1 => ?_) fun ⟨i, hi, h1⟩ => ⟨i, hi, ?_⟩
  · exact mod_eq_one_of_cast hn.one_lt (by rw [Nat.cast_pow, h1])
  · refine mod_eq_pred_of_cast hn.one_lt ?_
    rw [Nat.cast_pow, Nat.mul_comm, pow_mul, h1]

end Sys2Proof.Machine
end

section
/-! PROOF. The corner cases of the Miller-Rabin tester (42_miller_rabin.md R187) and one round of MRPP (R184). -/

namespace Sys2Proof.Machine

open Sys2Proof.Statements

/-! ### The witness modulo the candidate -/

theorem gcd_mod_left (a n : Nat) : Nat.gcd (a % n) n = Nat.gcd a n := by
  rw [← Nat.gcd_rec, Nat.gcd_comm]

/-- The verdict depends on the witness modulo the candidate only. -/
theorem mrWitness_mod {n : Nat} (hn : 0 < n) (a : Nat) : mrWitness n (a % n) = mrWitness n a := by
  simp only [mrWitness, xgcdCore_g _ hn, modexpCore_eq _ _ hn, gcd_mod_left, ← Nat.pow_mod]

/-- The odd part of `n - 1`, with the power of 2 that it leaves. -/
theorem exists_decomp {n : Nat} (hn : 3 ≤ n) : ∃ k q, n - 1 = 2 ^ k * q ∧ q % 2 = 1 := by
  obtain ⟨k, q, hq, h⟩ := Nat.exists_eq_two_pow_mul_odd (n := n - 1) (by omega)
  exact ⟨k, q, h, Nat.odd_iff.mp hq⟩

/-- The strong test on the witness's powers, for a witness with no proper factor of the candidate. -/
theorem exists_strongTest {n a : Nat} (hn : 3 ≤ n) (hodd : n % 2 = 1)
    (hgcd : Nat.gcd a n = 1 ∨ Nat.gcd a n = n) :
    ∃ k q, 0 < k ∧ q % 2 = 1 ∧ (mrWitness n a = false ↔
      a ^ q % n = 1 ∨ ∃ i, i < k ∧ a ^ (2 ^ i * q) % n = n - 1) := by
  obtain ⟨k, q, hkq, hq⟩ := exists_decomp hn
  obtain ⟨-, -, htest⟩ := mrWitnessIsTheStrongTest n a (by omega)
  obtain ⟨hk, hiff⟩ := htest hodd (by omega) k q hkq hq
  exact ⟨k, q, hk, hq, hiff⟩

/-- A multiple of the candidate: its powers are 0, neither 1 nor `n - 1`. -/
theorem mrWitness_of_mod_eq_zero {n a : Nat} (hn : 3 ≤ n) (hodd : n % 2 = 1) (ha : a % n = 0) :
    mrWitness n a = true := by
  have hgcd : Nat.gcd a n = n := by rw [← gcd_mod_left, ha, Nat.gcd_zero_left]
  obtain ⟨k, q, -, hq, hiff⟩ := exists_strongTest hn hodd (.inr hgcd)
  have hpow : ∀ e, 0 < e → a ^ e % n = 0 := fun e he => pow_mod_eq_zero ha he
  have hqpos : 0 < q := by omega
  refine eq_true_of_ne_false fun hfalse => ?_
  rcases hiff.mp hfalse with h1 | ⟨i, -, h1⟩
  · rw [hpow q hqpos] at h1
    omega
  · rw [hpow _ (Nat.mul_pos (Nat.two_pow_pos i) hqpos)] at h1
    omega

/-- A witness congruent to 1: all its powers are. -/
theorem mrWitness_of_mod_eq_one {n a : Nat} (hn : 3 ≤ n) (hodd : n % 2 = 1) (ha : a % n = 1) :
    mrWitness n a = false := by
  have hgcd : Nat.gcd a n = 1 := by rw [← gcd_mod_left, ha, Nat.gcd_one_left]
  obtain ⟨k, q, -, -, hiff⟩ := exists_strongTest hn hodd (.inl hgcd)
  refine hiff.mpr (.inl ?_)
  rw [Nat.pow_mod, ha, Nat.one_pow, Nat.mod_eq_of_lt (by omega)]

/-- A witness congruent to -1: its odd powers are. -/
theorem mrWitness_of_mod_eq_pred {n a : Nat} (hn : 3 ≤ n) (hodd : n % 2 = 1) (ha : a % n = n - 1) :
    mrWitness n a = false := by
  have hgcd : Nat.gcd a n = 1 := by
    rw [← gcd_mod_left, ha]
    exact (Nat.coprime_self_sub_left (by omega : 1 ≤ n)).mpr (Nat.coprime_one_left n)
  obtain ⟨k, q, hk, hq, hiff⟩ := exists_strongTest hn hodd (.inl hgcd)
  have hneg : (a : ZMod n) = -1 := by
    rw [← ZMod.natCast_mod, ha, Nat.cast_sub (by omega), ZMod.natCast_self, Nat.cast_one, zero_sub]
  refine hiff.mpr (.inr ⟨0, hk, mod_eq_pred_of_cast (by omega) ?_⟩)
  rw [Nat.pow_zero, Nat.one_mul, Nat.cast_pow, hneg, (Nat.odd_iff.mpr hq).neg_one_pow]

/-! ### MRPP with an answer -/

/-- With an answer the engine's step on an odd candidate of at least 5 tests it (R184). -/
theorem execMrpp_of_answer {s : State} {a : Nat} (hn : 5 ≤ s.big.n) (hodd : s.big.n % 2 = 1)
    (hans : s.engine.answer = some a) : execMrpp s = .next (mrppTest a s) := by
  rw [execMrpp_eq, if_neg (by omega), if_neg (by omega), if_neg (by omega), hans]

theorem mrppTest_of_out_of_range {s : State} {a : Nat} (ha : a < 2 ∨ s.big.n - 2 < a) :
    mrppTest a s = errored .rng s := by
  rw [mrppTest_eq, if_pos ha]
  rfl

theorem mrppTest_of_composite {s : State} {a : Nat} (hlo : 2 ≤ a) (hhi : a ≤ s.big.n - 2)
    (hw : mrWitness s.big.n a = true) : mrppTest a s = mrppVerdict true s.engine.drawn s := by
  rw [mrppTest_eq, if_neg (by omega), if_pos hw]

theorem mrppTest_of_passing {s : State} {a : Nat} (hlo : 2 ≤ a) (hhi : a ≤ s.big.n - 2)
    (hw : mrWitness s.big.n a = false) : mrppTest a s = mrppNextRound s := by
  rw [mrppTest_eq, if_neg (by omega), if_neg (ne_true_of_eq_false hw)]

/-- Settles O35: by what MRW leaves, the powers of 0, 1 and -1 modulo the candidate, and the range check of
MRPP. -/
theorem millerRabinCornerCases : Obligations.MillerRabinCornerCases := by
  refine ⟨fun s heven => ?_, fun s hn => ⟨((mrwWritesVerdict.2 s).1 hn), rfl⟩, by decide,
    fun n a hn hodd => ⟨mrWitness_of_mod_eq_zero hn hodd, mrWitness_of_mod_eq_one hn hodd,
      mrWitness_of_mod_eq_pred hn hodd, (mrWitness_mod (by omega) a).symm⟩,
    fun s a hn hodd hans ha => ⟨?_, rfl, rfl⟩⟩
  · exact ⟨_, (mrwWritesVerdict.2 s).2 (by omega), mrWitness_of_even heven _⟩
  · exact (execMrpp_of_answer hn hodd hans).trans (congrArg _ (mrppTest_of_out_of_range ha))

/-- Settles O37: by the three outcomes of the test, and the head of the loop. -/
theorem mrppRound : Obligations.MrppRound := by
  intro s a r hn hodd _ _ heng
  have hexec : exec .mrpp s = .next (mrppTest a s) :=
    execMrpp_of_answer hn hodd (congrArg Engine.answer heng)
  have hdrawn : s.engine.drawn = r := congrArg Engine.drawn heng
  rw [hexec]
  refine ⟨fun ha => ?_, fun hlo hhi hw => ?_, fun hlo hhi hw hr => ?_, fun hlo hhi hw hr => ?_⟩
  · rw [mrppTest_of_out_of_range ha]
  · rw [mrppTest_of_composite hlo hhi hw, hdrawn]
    rfl
  · rw [mrppTest_of_passing hlo hhi hw, mrppNextRound_eq, hdrawn,
      if_pos (show r < mrRounds from hr), drawWitness, heng]
  · rw [mrppTest_of_passing hlo hhi hw, mrppNextRound_eq, hdrawn, if_neg (by rw [hr]; decide)]
    rfl

end Sys2Proof.Machine
end

section
/-! PROOF. A whole MRPP, turn by turn (42_miller_rabin.md R184, R186, R188): it tests its witnesses in order, and it
accepts every prime. -/

namespace Sys2Proof.Machine

open Sys2Proof.Statements

/-! ### Runs -/

theorem core_run_succ {M : Host.Core} {s t : M.State} (h : M.step s = .next t) (k : Nat) :
    M.run (k + 1) s = M.run k t := by
  rw [Host.Core.run, h]

theorem run_succ {s t : State} (h : step s = .next t) (k : Nat) : core.run (k + 1) s = core.run k t :=
  core_run_succ (M := core) h k

theorem run_one (s : State) : core.run 1 s = step s := by
  obtain ⟨t, h⟩ := step_total s
  rw [run_succ h 0, h]
  rfl

/-! ### The states between the turns of an MRPP -/

/-- `s`, with the command waiting for the answer to its request after `r` rounds. -/
def State.waiting (s : State) (r : Nat) (script : List Event) : State :=
  { s with
    engine :=
      { phase := .busy, request := some { lo := 2, hi := s.big.n - 1 }, answer := none, drawn := r }
    script := script }

/-- `s`, with the answer `a` of round `r` not yet tested. -/
def State.answered (s : State) (a r : Nat) (script : List Event) : State :=
  { s with engine := { phase := .busy, request := none, answer := some a, drawn := r }, script := script }

/-- The events of a list of answers, each with the engine's turn after it. -/
def answerTurns (answers : List Nat) : List Event := answers.flatMap fun a => [.answer a, .engine]

theorem answerTurns_cons (a : Nat) (answers : List Nat) (rest : List Event) :
    answerTurns (a :: answers) ++ rest = .answer a :: .engine :: (answerTurns answers ++ rest) := rfl

theorem drawScript_append_singleton (passed : List Nat) (a : Nat) (rest : List Event) :
    drawScript (passed ++ [a]) ++ rest =
      .engine :: (answerTurns passed ++ .answer a :: .engine :: rest) := by
  simp [drawScript, answerTurns]

theorem step_waiting (s : State) (a r : Nat) (rest : List Event) :
    step (s.waiting r (.answer a :: rest)) = .next (s.answered a (r + 1) rest) := rfl

section

variable {s : State}

theorem step_answered (hcmd : s.cmd = encode .mrpp) (a r : Nat) (rest : List Event) :
    step (s.answered a r (.engine :: rest)) = exec .mrpp (s.answered a r rest) := by
  rw [step_cons rfl, perform_engine]
  exact engineStep_encode hcmd rfl

/-- The first turn of a freshly accepted MRPP asks for the first witness. -/
theorem step_freshlyAccepted (hcmd : s.cmd = encode .mrpp) (hn : 5 ≤ s.big.n) (hodd : s.big.n % 2 = 1)
    (hfresh : freshlyAccepted s) {rest : List Event} (hs : s.script = .engine :: rest) :
    step s = .next (s.waiting 0 rest) := by
  have hready : engineReady { s with script := rest } = true := by
    refine (engineReady_iff _).mpr ⟨congrArg Engine.phase hfresh, congrArg Engine.request hfresh⟩
  obtain ⟨-, -, -, hfirst⟩ := mrppOnSmallAndEvenCandidates { s with script := rest }
  obtain ⟨hexec, -⟩ := hfirst hn hodd hfresh
  rw [step_cons hs, perform_engine]
  exact (engineStep_encode (s := { s with script := rest }) hcmd hready).trans hexec

/-- A witness in range that does not prove `n` composite. -/
def passesTest (n a : Nat) : Prop := 2 ≤ a ∧ a ≤ n - 2 ∧ mrWitness n a = false

/-- A round before the last whose witness passes: an answer and a turn. -/
theorem step_passed (hn : 5 ≤ s.big.n) (hodd : s.big.n % 2 = 1) {a r : Nat}
    (ha : passesTest s.big.n a) (hr : r + 1 < 20) (rest : List Event) :
    exec .mrpp (s.answered a (r + 1) rest) = .next (s.waiting (r + 1) rest) := by
  obtain ⟨hlo, hhi, hw⟩ := ha
  obtain ⟨-, -, hnext, -⟩ := mrppRound (s.answered a (r + 1) rest) a (r + 1) hn hodd
    (Nat.le_add_left 1 r) hr.le rfl
  exact hnext hlo hhi hw hr

/-- The rounds of passing witnesses before the last round. -/
theorem run_passed (hcmd : s.cmd = encode .mrpp) (hn : 5 ≤ s.big.n) (hodd : s.big.n % 2 = 1)
    {passed : List Nat} (hpass : ∀ a ∈ passed, passesTest s.big.n a) {r : Nat}
    (hr : r + passed.length < 20) (rest : List Event) (k : Nat) :
    core.run (2 * passed.length + k) (s.waiting r (answerTurns passed ++ rest)) =
      core.run k (s.waiting (r + passed.length) rest) := by
  induction passed generalizing r with
  | nil => rw [List.length_nil, Nat.mul_zero, Nat.zero_add]; rfl
  | cons a passed ih =>
    rw [List.forall_mem_cons] at hpass
    rw [List.length_cons] at hr ⊢
    have hround := step_passed hn hodd hpass.1 (r := r) (by omega) (answerTurns passed ++ rest)
    rw [show 2 * (passed.length + 1) + k = 2 * passed.length + k + 1 + 1 by ring, answerTurns_cons,
      run_succ (step_waiting s a r _), run_succ ((step_answered hcmd a (r + 1) _).trans hround),
      ih hpass.2 (by omega), Nat.add_right_comm r, Nat.add_assoc r]

/-- The run of an MRPP up to the test of its next witness after some that passed. -/
theorem run_drawScript (hcmd : s.cmd = encode .mrpp) (hfresh : freshlyAccepted s) (hn : 5 ≤ s.big.n)
    (hodd : s.big.n % 2 = 1) {passed : List Nat} (hpass : ∀ a ∈ passed, passesTest s.big.n a)
    (hlen : passed.length < 20) {a : Nat} {rest : List Event}
    (hs : s.script = drawScript (passed ++ [a]) ++ rest) :
    core.run (2 * passed.length + 3) s = exec .mrpp (s.answered a (passed.length + 1) rest) := by
  rw [drawScript_append_singleton] at hs
  rw [run_succ (step_freshlyAccepted hcmd hn hodd hfresh hs),
    run_passed hcmd hn hodd hpass (r := 0) (by omega), run_succ (step_waiting s a _ _), run_one,
    step_answered hcmd, Nat.zero_add]

end

/-- Settles O38: the witnesses before the last one tested pass, and the round of that one ends the command. -/
theorem mrppTestsWitnessesInOrder : Obligations.MrppTestsWitnessesInOrder := by
  intro s passed rest hcmd hfresh hn hodd hpass
  refine ⟨fun hlen hs => ?_, fun a hlen hs => ?_⟩
  · obtain rfl | ⟨init, a, rfl⟩ := List.eq_nil_or_concat' passed
    · cases hlen
    rw [List.length_append, List.length_singleton] at hlen
    rw [List.forall_mem_append] at hpass
    obtain ⟨hlo, hhi, hw⟩ := hpass.2 a List.mem_cons_self
    obtain ⟨-, -, -, hlast⟩ := mrppRound (s.answered a (init.length + 1) rest) a (init.length + 1) hn hodd
      (Nat.le_add_left 1 _) hlen.le rfl
    rw [show 41 = 2 * init.length + 3 by omega,
      run_drawScript hcmd hfresh hn hodd hpass.1 (by omega) hs]
    exact hlast hlo hhi hw hlen
  · obtain ⟨hrange, hcomposite, -⟩ := mrppRound (s.answered a (passed.length + 1) rest) a
      (passed.length + 1) hn hodd (Nat.le_add_left 1 _) hlen rfl
    rw [run_drawScript hcmd hfresh hn hodd hpass hlen hs]
    exact ⟨hcomposite, hrange⟩

/-- Settles O39: no answer in the range is a multiple of the prime, so every witness passes. -/
theorem mrppAcceptsEveryPrime : Obligations.MrppAcceptsEveryPrime := by
  intro s answers rest hcmd hfresh hprime hn hlen hans hs
  have hodd : s.big.n % 2 = 1 := hprime.eq_two_or_odd.resolve_left (by omega)
  have hpass : ∀ a ∈ answers, passesTest s.big.n a := fun a ha => by
    obtain ⟨hlo, hhi⟩ := hans a ha
    exact ⟨hlo, hhi, primesHaveNoWitness s.big.n a hprime (by omega)
      (Nat.not_dvd_of_pos_of_lt (by omega) (by omega))⟩
  exact (mrppTestsWitnessesInOrder s answers rest hcmd hfresh hn hodd hpass).1 hlen hs

end Sys2Proof.Machine
end

section
/-! PROOF. Every command completes (60_exceptions.md R229): in one turn, or once the requests of an MRPP are
answered. -/

namespace Sys2Proof.Machine

open Sys2Proof.Statements

/-- The command has completed: the engine is at rest and DONE_P is 1. -/
def State.done (s : State) : Prop := s.engine = Engine.atRest ∧ s.intStatus.doneP = true

/-- The command has completed, or it waits for the answer to a request, and `k` answers are enough for the rounds
that are left. -/
def State.endsWithin (k : Nat) (s : State) : Prop :=
  s.done ∨ (s.engine.phase = .busy ∧ (∃ r, s.engine.request = some r) ∧ s.engine.drawn < mrRounds ∧
    mrRounds ≤ s.engine.drawn + k)

/-- A command that is no MRPP completes in one turn. -/
theorem exec_done {i : Instr} (hi : i ≠ .mrpp) (s : State) : ∃ t, exec i s = .next t ∧ t.done := by
  rcases exec_cases i s with ⟨_, _, _, _, e⟩ | ⟨h, -⟩
  · exact ⟨_, e, rfl, rfl⟩
  · exact absurd h hi

theorem engineStep_script {s t : State} (h : engineStep s = .next t) : t.script = s.script := by
  rcases engineStep_cases s with ⟨-, e⟩ | ⟨-, -, e⟩ | ⟨i, -, -, e⟩
  · cases e.symm.trans h
    rfl
  · cases e.symm.trans h
    rfl
  · obtain ⟨-, -, -, -, -, -, -, -, hscript, -⟩ := exec_frame (e.symm.trans h)
    exact hscript

/-- The turn of an engine that may move completes the command, or draws in one of the rounds left. -/
theorem engineStep_endsWithin {s : State} (hready : engineReady s = true) {k : Nat}
    (hk : mrRounds ≤ s.engine.drawn + k) :
    ∃ t, engineStep s = .next t ∧ t.endsWithin k ∧ t.script = s.script := by
  obtain ⟨t, ht⟩ := engineStep_total s
  refine ⟨t, ht, ?_, engineStep_script ht⟩
  rcases engineStep_cases s with ⟨hr, -⟩ | ⟨-, -, e⟩ | ⟨i, -, -, e⟩
  · exact absurd hready (ne_true_of_eq_false hr)
  · cases e.symm.trans ht
    exact .inl ⟨rfl, rfl⟩
  · rw [e] at ht
    obtain ⟨hbusy, -⟩ := (engineReady_iff s).mp hready
    rcases exec_cases i s with ⟨_, _, _, _, e⟩ | ⟨-, -, -, hdrawn, e⟩ <;> cases e.symm.trans ht
    · exact .inl ⟨rfl, rfl⟩
    · exact .inr ⟨hbusy, ⟨_, rfl⟩, hdrawn, hk⟩

/-- An answer and the engine's turn after it use up one of the answers that are enough. -/
theorem answerTurn_endsWithin {s : State} {k a : Nat} {rest : List Event} (h : s.endsWithin (k + 1))
    (hs : s.script = .answer a :: .engine :: rest) :
    ∃ u t, step s = .next u ∧ step u = .next t ∧ t.endsWithin k ∧ t.script = rest := by
  rcases h with ⟨heng, hdone⟩ | ⟨hbusy, ⟨r, hreq⟩, -, hk⟩
  · obtain ⟨-, hidle⟩ := idleBlockKeepsItsState s heng
    obtain ⟨-, hidle'⟩ := idleBlockKeepsItsState { s with script := .engine :: rest } heng
    exact ⟨_, _, hidle _ _ hs (.inr ⟨a, .inl rfl⟩), hidle' _ _ rfl (.inl rfl), .inl ⟨heng, hdone⟩, rfl⟩
  · obtain ⟨hanswer, -⟩ := answersGoToTheOutstandingRequest s a (.engine :: rest)
    have hu : step s = .next (s.answered a (s.engine.drawn + 1) (.engine :: rest)) := by
      rw [hanswer r hs hreq, hbusy]
      rfl
    obtain ⟨t, ht, hends, hscript⟩ := engineStep_endsWithin (s := s.answered a (s.engine.drawn + 1) rest)
      rfl (k := k) (hk.trans_eq (Nat.succ_add_eq_add_succ _ k).symm)
    exact ⟨_, t, hu, ht, hends, hscript⟩

theorem run_answerTurns (answers : List Nat) {s : State} (h : s.endsWithin answers.length)
    (hs : s.script = answerTurns answers) :
    ∃ t, core.run (2 * answers.length) s = .next t ∧ t.done := by
  induction answers generalizing s with
  | nil =>
    rcases h with hdone | ⟨-, -, hlt, hle⟩
    · exact ⟨s, rfl, hdone⟩
    · exact absurd hle (Nat.not_le.mpr hlt)
  | cons a answers ih =>
    obtain ⟨u, t, hu, ht, hends, hscript⟩ := answerTurn_endsWithin h hs
    rw [show 2 * (a :: answers).length = 2 * answers.length + 1 + 1 by simp; ring, run_succ hu,
      run_succ ht]
    exact ih hends hscript

/-- While a request is outstanding a transaction leaves the engine waiting, or resets the block. -/
theorem serve_engine_of_busy {s : State} (hb : s.engine.phase = .busy) (t : BusTxn) :
    (serve t s).engine = s.engine ∨ (serve t s).blockAtReset := by
  rcases serve_busy (t := t) hb with ⟨-, -, -, heng⟩ | hreset
  · exact .inl heng
  · exact .inr hreset

theorem engineStep_of_request {s : State} {r : DrawRequest} (h : s.engine.request = some r) :
    engineStep s = .next s := by
  rcases engineStep_cases s with ⟨-, e⟩ | ⟨hr, -⟩ | ⟨i, hr, -⟩
  · exact e
  · exact absurd (((engineReady_iff s).mp hr).2.symm.trans h) (by simp)
  · exact absurd (((engineReady_iff s).mp hr).2.symm.trans h) (by simp)

/-- With a request outstanding no step but an answer or a reset changes the engine (60_exceptions.md R229). -/
theorem step_of_request {s s' : State} {r : DrawRequest} (hb : s.engine.phase = .busy)
    (hreq : s.engine.request = some r) (hstep : step s = .next s')
    (hans : ∀ a rest, s.script ≠ .answer a :: rest) : s'.engine = s.engine ∨ s'.blockAtReset := by
  have hserve : ∀ t, (serve t s.popped).engine = s.engine ∨ (serve t s.popped).blockAtReset :=
    serve_engine_of_busy (s := s.popped) hb
  rcases step_cases hstep with ⟨-, he⟩ | ⟨t, -, rfl⟩ | ⟨t, -, -, he⟩ | ⟨-, rfl⟩ | ⟨a, hs, -⟩ |
    ⟨-, rfl⟩ | ⟨-, rfl⟩ | ⟨-, rfl⟩
  · cases (engineStep_of_request (s := s.popped) hreq).symm.trans he
    exact .inl rfl
  · exact hserve t
  · rcases hserve t with heng | hreset
    · cases (engineStep_of_request (heng ▸ hreq)).symm.trans he
      exact .inl heng
    · rw [engineStep_of_blockAtReset hreset he]
      exact .inr hreset
  · rcases hostStep_cases s.popped with ⟨ha, resp, f, e⟩ | ⟨off, w, ha, -, -, e⟩ <;> rw [e]
    · exact .inl rfl
    · exact hserve _
  · obtain ⟨rest, hs⟩ := List.head?_eq_some_iff.mp hs
    exact absurd hs (hans a rest)
  · exact .inl rfl
  · exact .inr (assertReset_blockAtReset _)
  · rcases releaseReset_cases s.popped with e | hreset
    · rw [e]
      exact .inl rfl
    · exact .inr hreset

/-- Settles O40: 20 answers are enough for the rounds of an MRPP, and the others complete in one turn. -/
theorem everyCommandCompletes : Obligations.EveryCommandCompletes := by
  refine ⟨fun s answers hfresh hlen hs => ?_, fun s i hi => ?_, fun s s' r hb hreq hstep hans =>
    step_of_request hb hreq hstep hans⟩
  · obtain ⟨u, hu, hends, hscript⟩ := engineStep_endsWithin
      (s := { s with script := answerTurns answers }) (k := answers.length)
      ((engineReady_iff _).mpr ⟨congrArg Engine.phase hfresh, congrArg Engine.request hfresh⟩)
      (by rw [hlen]; exact Nat.le_add_left _ _)
    obtain ⟨t, ht, heng, hdone⟩ := run_answerTurns answers hends hscript
    rw [show 41 = 2 * answers.length + 1 by omega, run_succ ((step_cons hs).trans hu)]
    exact ⟨t, ht, congrArg Engine.phase heng, hdone⟩
  · obtain ⟨t, ht, heng, hdone⟩ := exec_done hi s
    exact ⟨t, ht, congrArg Engine.phase heng, hdone⟩

end Sys2Proof.Machine
end

section
/-! PROOF. The register map after a write: a limb write is seen by the read of its own word alone (10_state.md
R39); the fields of STATUS (R44) and of INT_STATUS, with its write-1-to-clear (R51, 60_exceptions.md R218). -/

namespace Sys2Proof.Machine

open Sys2Proof.Statements

/-! ### A limb write and the reads after it -/

/-- The host's write of a limb of A, B or N while idle. -/
theorem memWrite_limb {s : State} {r : BigReg} {i : Nat} (hp : s.params.wf = true)
    (hi : i < s.params.limbs) (hw : hostWritable r = true) (hidle : s.engine.phase = .idle) (v : Word) :
    memWrite (windowBase r + 4 * i) v s = setBig r (putLimb (getBig r s) i v) s := by
  have hL := (limbs_of_wf hp).2
  rw [memWrite_window s r (by omega), if_pos hi, writeLimb_idle hw hidle]

/-- A register write is seen by the reads of that register's limbs alone. -/
theorem readTarget_setBig {s : State} {r : BigReg} {x : Nat} {target : Target}
    (h : ∀ j, target = .limb r j → limbOf (x % s.params.bound) j = limbOf (getBig r s) j) :
    readTarget (setBig r x s) target = readTarget s target := by
  cases target with
  | id | beyond | reserved => rfl
  | param => rw [readTarget, setBig_params, readTarget]
  | ctrl => rw [readTarget, ctrlWord, setBig_ctrlIe]; rfl
  | status => rw [readTarget, statusWord, busy, setBig_status, setBig_engine]; rfl
  | intStatus => rw [readTarget, intStatusWord, setBig_intStatus]; rfl
  | cmd => rw [readTarget, setBig_cmd, readTarget]
  | limb q j =>
    by_cases hq : q = r
    · subst hq
      rw [readTarget, getBig_setBig_self, h j rfl, readTarget]
    · rw [readTarget, getBig_setBig_other s hq, readTarget]

/-- Settles O44: the limb reads back, the other limbs of the register keep their words, and no other word depends
on the register. -/
theorem limbReadAfterWrite : Obligations.LimbReadAfterWrite := by
  intro s r i v hp hwf hi hw hidle
  have hL := (limbs_of_wf hp).2
  have hfit : putLimb (getBig r s) i v % s.params.bound = putLimb (getBig r s) i v :=
    Nat.mod_eq_of_lt (putLimb_lt v (getBig_lt hwf r) hi)
  rw [memWrite_limb hp hi hw hidle]
  refine ⟨?_, fun off hal hoff => ?_⟩
  · rw [memRead_window _ r (by omega), setBig_params, if_pos hi, getBig_setBig_self, hfit,
      limbOf_putLimb_self]
  · rw [memRead, setBig_params, memRead]
    refine readTarget_setBig fun j hj => ?_
    have hword := decodeOffset_limb_word hj
    rw [hfit, limbOf_putLimb_other _ _ _ _ (by rintro rfl; omega)]

/-! ### The fields of STATUS -/

/-- The STATUS word with its width written as the fields add it up: the laws of `++` need it so. -/
def statusFields (s : State) : BitVec (11 + (5 + (4 + (4 + (2 + (1 + (1 + (1 + (1 + (1 + 1)))))))))) :=
  0#11 ++ (s.status.wcnt ++ (0#4 ++ (errCodeBits s.status.errcode ++ (0#2 ++
    (flagBit s.status.vsign ++ (flagBit s.status.usign ++ (flagBit s.status.ncop ++
      (flagBit s.status.comp ++ (flagBit s.status.err ++ flagBit (busy s))))))))))

theorem statusWord_getLsbD (s : State) (j : Nat) :
    (statusWord s).getLsbD j = (statusFields s).getLsbD j := rfl

theorem statusWord_extractLsb' (s : State) (lo len : Nat) :
    (statusWord s).extractLsb' lo len = (statusFields s).extractLsb' lo len := rfl

theorem statusWord_flags (s : State) :
    (statusWord s).getLsbD 0 = decide (s.engine.phase = .busy) ∧
    (statusWord s).getLsbD 1 = s.status.err ∧ (statusWord s).getLsbD 2 = s.status.comp ∧
    (statusWord s).getLsbD 3 = s.status.ncop ∧ (statusWord s).getLsbD 4 = s.status.usign ∧
    (statusWord s).getLsbD 5 = s.status.vsign := by
  simp only [statusWord_getLsbD, statusFields, BitVec.getLsbD_append, flagBit]
  simp [busy]

theorem statusWord_fields (s : State) :
    (statusWord s).extractLsb' 6 2 = 0#2 ∧
    (statusWord s).extractLsb' 8 4 = errCodeBits s.status.errcode ∧
    (statusWord s).extractLsb' 12 4 = 0#4 ∧ (statusWord s).extractLsb' 16 5 = s.status.wcnt ∧
    (statusWord s).extractLsb' 21 11 = 0#11 := by
  simp (disch := decide) only [statusWord_extractLsb', statusFields, BitVec.extractLsb'_append_eq_of_le,
    BitVec.extractLsb'_append_eq_of_add_le]
  simp

/-- Settles O48: by the fields of the STATUS word, and the codes of R210. -/
theorem statusWordFields : Obligations.StatusWordFields := by
  intro s hp
  obtain ⟨hbusy, herr, hcomp, hncop, husign, hvsign⟩ := statusWord_flags s
  obtain ⟨hrsv, hcode, hrsv', hwcnt, hrsv''⟩ := statusWord_fields s
  have hnumber : ∀ c, s.status.errcode = c → (statusWord s).extractLsb' 8 4 = errCodeBits c :=
    fun c hc => hc ▸ hcode
  refine ⟨by rw [memRead_id]; decide, ?_, ?_⟩
  · rw [memRead_param]
    exact paramWord_toNat (limbs_of_wf hp).2
  · rw [memRead_status]
    exact ⟨hbusy, herr, hcomp, hncop, husign, hvsign, hrsv, hcode, hrsv', hwcnt, hrsv'', hnumber .none,
      hnumber .illegal, hnumber .divZero, hnumber .nonCoprime, hnumber .range, hnumber .rng⟩

/-! ### INT_STATUS -/

/-- The INT_STATUS word with its width written as the fields add it up. -/
def intStatusFields (s : State) : BitVec (30 + (1 + 1)) :=
  0#30 ++ (flagBit s.intStatus.ovr ++ flagBit s.intStatus.doneP)

theorem intStatusWord_getLsbD (s : State) (j : Nat) :
    (intStatusWord s).getLsbD j = (intStatusFields s).getLsbD j := rfl

theorem intStatusWord_extractLsb' (s : State) (lo len : Nat) :
    (intStatusWord s).extractLsb' lo len = (intStatusFields s).extractLsb' lo len := rfl

theorem intStatusWord_flags (s : State) :
    (intStatusWord s).getLsbD 0 = s.intStatus.doneP ∧ (intStatusWord s).getLsbD 1 = s.intStatus.ovr ∧
    (intStatusWord s).extractLsb' 2 30 = 0#30 := by
  simp (disch := decide) only [intStatusWord_getLsbD, intStatusWord_extractLsb', intStatusFields,
    BitVec.getLsbD_append, BitVec.extractLsb'_append_eq_of_le, flagBit]
  simp

theorem writeOneToClear_eq (old written : Bool) :
    writeOneToClear old written = if written = true then false else old := by
  cases old <;> cases written <;> rfl

/-- A transaction at INT_STATUS leaves the command in progress alone, in reset too. -/
theorem serve_intStatus (v : Word) (s : State) :
    ∃ int resp, serve (writeAt s 0x010 v) s = { s with intStatus := int, response := resp } := by
  by_cases hr : s.resetLine = true
  · exact ⟨s.intStatus, .notServed, serve_in_reset hr _⟩
  · rw [serve_writeAt v (eq_false_of_ne_true hr) (by decide) (by decide), memWrite_intStatus]
    exact ⟨_, _, rfl⟩

/-- The engine's turn that ends a command sets DONE_P, whatever it was before (10_state.md R51). -/
theorem doneP_of_completion {s t : State} (hb : s.engine.phase = .busy) (h : engineStep s = .next t)
    (hidle : t.engine.phase = .idle) : t.intStatus.doneP = true := by
  rcases engineStep_cases s with ⟨-, e⟩ | ⟨-, -, e⟩ | ⟨i, -, -, e⟩
  · cases e.symm.trans h
    exact absurd (hb.symm.trans hidle) (by decide)
  · cases e.symm.trans h
    rfl
  · rcases exec_cases i s with ⟨_, _, _, _, e'⟩ | ⟨-, -, -, -, e'⟩ <;> cases (e.trans e').symm.trans h
    · rfl
    · exact absurd (hb.symm.trans hidle) (by decide)

/-- A transaction at INT_STATUS in the same step as the engine's turn (log 13) is not seen in what the command
does. -/
theorem step_intStatus_and_engine {s : State} {v : Word} {rest : List Event}
    (hb : s.engine.phase = .busy) (hs : s.script = .busAndEngine (writeAt s 0x010 v) :: rest) :
    ∃ u, u.cmd = s.cmd ∧ u.engine = s.engine ∧ step s = engineStep u := by
  obtain ⟨int, resp, e⟩ := serve_intStatus v { s with script := rest }
  have hturn : step s = engineStep (serve (writeAt s 0x010 v) { s with script := rest }) :=
    (step_cons hs).trans (if_pos ((busy_iff { s with script := rest }).mpr hb))
  exact ⟨{ s with script := rest, intStatus := int, response := resp }, rfl, rfl,
    hturn.trans (congrArg engineStep e)⟩

/-- Settles O50: by the fields of the word; the transaction comes before the engine's turn, whose completion sets
DONE_P. -/
theorem intStatusWriteOneToClear : Obligations.IntStatusWriteOneToClear := by
  refine ⟨fun s v => ?_, fun s v rest i hdec hi hb hreq _ _ hs => ?_,
    fun s s' v rest hb hs hstep hidle => ?_⟩
  · obtain ⟨hdone, hovr, hrsv⟩ := intStatusWord_flags s
    rw [memRead_intStatus, memWrite_intStatus, clearInt, writeOneToClear_eq, writeOneToClear_eq]
    exact ⟨hdone, hovr, hrsv, rfl⟩
  · obtain ⟨u, hcmd, heng, e⟩ := step_intStatus_and_engine hb hs
    obtain ⟨t, ht, hrest, hdone⟩ := exec_done hi u
    have hready : engineReady u = true := (engineReady_iff u).mpr (heng ▸ ⟨hb, hreq⟩)
    have hturn := engineStep_encode (hcmd.trans (eq_encode_of_decodeCmd hdec)) hready
    exact ⟨t, (e.trans hturn).trans ht, congrArg Engine.phase hrest, hdone⟩
  · obtain ⟨u, -, heng, e⟩ := step_intStatus_and_engine hb hs
    exact doneP_of_completion (heng ▸ hb) (e.symm.trans hstep) hidle

end Sys2Proof.Machine
end

section
/-! PROOF. What may change a flag or a control register (10_state.md R43, R46, R51, R52, 60_exceptions.md R214, R218):
each has its own events, and no step of another agent is one of them. -/

namespace Sys2Proof.Machine

open Sys2Proof.Statements

/-! ### The events of each flag -/

/-- DONE_P falls by a host write of 1 to it, and rises at a completion (10_state.md R51). -/
def donePEvents (s s' : State) : Prop :=
  (s.intStatus.doneP = true → s'.intStatus.doneP = false →
    ∃ v : Word, v.getLsbD 0 = true ∧ servesWrite s 0x010 v) ∧
  (s.intStatus.doneP = false → s'.intStatus.doneP = true →
    s.engine.phase = .busy ∧ s'.engine.phase = .idle)

/-- OVR falls by a host write of 1 to it, and rises when a write is dropped (60_exceptions.md R214). -/
def ovrEvents (s s' : State) : Prop :=
  (s.intStatus.ovr = true → s'.intStatus.ovr = false →
    ∃ v : Word, v.getLsbD 1 = true ∧ servesWrite s 0x010 v) ∧
  (s.intStatus.ovr = false → s'.intStatus.ovr = true →
    s.engine.phase = .busy ∧ ∃ off v, servesWrite s off v ∧
      (off = 0x014 ∨ ∃ r i, (r = .a ∨ r = .b ∨ r = .n) ∧ i < s.params.limbs ∧
        off = windowBase r + 4 * i))

/-- IE changes by a CTRL write with SRST = 0 (10_state.md R43). -/
def ieEvents (s s' : State) : Prop :=
  s'.ctrlIe = s.ctrlIe ∨
    ∃ v : Word, v.getLsbD 1 = false ∧ servesWrite s 0x008 v ∧ s'.ctrlIe = v.getLsbD 0

/-- CMD changes by the acceptance of the word written (10_state.md R52). -/
def cmdEvents (s s' : State) : Prop :=
  s'.cmd = s.cmd ∨ (s.engine.phase = .idle ∧ s'.engine.phase = .busy ∧ servesWrite s 0x014 s'.cmd)

/-- ERR and ERRCODE change at an error completion and at an acceptance (10_state.md R46). -/
def errEvents (s s' : State) : Prop :=
  (s'.status.err = s.status.err ∧ s'.status.errcode = s.status.errcode) ∨
  (s.engine.phase = .busy ∧ s'.engine.phase = .idle ∧ s'.intStatus.doneP = true ∧
    s'.status.err = true ∧ s'.status.errcode ≠ .none) ∨
  (s.engine.phase = .idle ∧ s'.engine.phase = .busy ∧ s'.status.err = false ∧
    s'.status.errcode = .none ∧ servesWrite s 0x014 s'.cmd)

/-- From `s` to `s'` every flag and control register kept its value, or changed by one of its events. -/
structure FlagEvents (s s' : State) : Prop where
  doneP : donePEvents s s'
  ovr : ovrEvents s s'
  ie : ieEvents s s'
  cmd : cmdEvents s s'
  err : errEvents s s'

theorem donePEvents_of_eq {s s' : State} (h : s'.intStatus.doneP = s.intStatus.doneP) :
    donePEvents s s' := by
  refine ⟨fun h1 h2 => ?_, fun h1 h2 => ?_⟩ <;> rw [h, h1] at h2 <;> cases h2

theorem ovrEvents_of_eq {s s' : State} (h : s'.intStatus.ovr = s.intStatus.ovr) : ovrEvents s s' := by
  refine ⟨fun h1 h2 => ?_, fun h1 h2 => ?_⟩ <;> rw [h, h1] at h2 <;> cases h2

theorem flagEvents_of_eq {s s' : State} (hint : s'.intStatus = s.intStatus) (hie : s'.ctrlIe = s.ctrlIe)
    (hcmd : s'.cmd = s.cmd) (hst : s'.status = s.status) : FlagEvents s s' where
  doneP := donePEvents_of_eq (by rw [hint])
  ovr := ovrEvents_of_eq (by rw [hint])
  ie := .inl hie
  cmd := .inl hcmd
  err := .inl (by rw [hst]; exact ⟨rfl, rfl⟩)

theorem blockOnly_flagEvents (s : State) : BlockOnly (FlagEvents s) :=
  fun _ _ _ _ _ ⟨hdone, hovr, hie, hcmd, herr⟩ => ⟨hdone, hovr, hie, hcmd, herr⟩

/-! ### A host write -/

theorem writeOneToClear_of_clear {old written : Bool} (hold : old = true)
    (h : writeOneToClear old written = false) : written = true := by
  subst hold
  cases written with
  | true => rfl
  | false => cases h

theorem writeOneToClear_of_zero {old written : Bool} (hold : old = false) :
    writeOneToClear old written = false := by
  subst hold
  rfl

theorem flagEvents_clearInt {s : State} {v : Word} (hw : servesWrite s 0x010 v) :
    FlagEvents s (clearInt v s.popped) where
  doneP := ⟨fun h1 h2 => ⟨v, writeOneToClear_of_clear h1 h2, hw⟩,
    fun h1 h2 => absurd (writeOneToClear_of_zero h1) (ne_false_of_eq_true h2)⟩
  ovr := ⟨fun h1 h2 => ⟨v, writeOneToClear_of_clear h1 h2, hw⟩,
    fun h1 h2 => absurd (writeOneToClear_of_zero h1) (ne_false_of_eq_true h2)⟩
  ie := .inl rfl
  cmd := .inl rfl
  err := .inl ⟨rfl, rfl⟩

theorem flagEvents_overrun {s : State} {off : Nat} {v : Word} (hw : servesWrite s off v)
    (hb : s.engine.phase = .busy)
    (hoff : off = 0x014 ∨ ∃ r i, hostWritable r = true ∧ i < s.params.limbs ∧
      off / 4 * 4 = windowBase r + 4 * i) : FlagEvents s (overrun s.popped) where
  doneP := donePEvents_of_eq rfl
  ovr := by
    have hserved := hw
    obtain ⟨-, -, hal, -⟩ := hserved
    refine ⟨fun _ h2 => (by cases h2), fun _ _ => ⟨hb, off, v, hw, hoff.imp_right ?_⟩⟩
    rintro ⟨r, i, hr, hi, hword⟩
    exact ⟨r, i, (hostWritable_iff r).mp hr, hi, by omega⟩
  ie := .inl rfl
  cmd := .inl rfl
  err := .inl ⟨rfl, rfl⟩

theorem flagEvents_accept {s : State} {v : Word} (hw : servesWrite s 0x014 v)
    (hidle : s.engine.phase = .idle) : FlagEvents s (accept v s.popped) where
  doneP := donePEvents_of_eq rfl
  ovr := ovrEvents_of_eq rfl
  ie := .inl rfl
  cmd := .inr ⟨hidle, rfl, hw⟩
  err := .inr (.inr ⟨hidle, rfl, rfl, rfl, hw⟩)

theorem flagEvents_ctrlIe {s : State} {v : Word} (hw : servesWrite s 0x008 v)
    (hv : v.getLsbD 1 = false) : FlagEvents s { s.popped with ctrlIe := v.getLsbD 0 } where
  doneP := donePEvents_of_eq rfl
  ovr := ovrEvents_of_eq rfl
  ie := .inr ⟨v, hv, hw, rfl⟩
  cmd := .inl rfl
  err := .inl ⟨rfl, rfl⟩

theorem memWrite_flagEvents {s : State} {off : Nat} {v : Word} (hw : servesWrite s off v) :
    (memWrite off v s.popped).blockAtReset ∨ FlagEvents s (memWrite off v s.popped) := by
  rcases memWrite_cases off v s.popped with e | ⟨-, -, e⟩ | ⟨rfl, hv, e⟩ | ⟨rfl, e⟩ | ⟨hb, hoff, e⟩ |
    ⟨rfl, hb, e⟩ | ⟨r, i, -, -, -, -, e⟩ <;> rw [e]
  · exact .inr (flagEvents_of_eq rfl rfl rfl rfl)
  · exact .inl (resetBlock_blockAtReset _)
  · exact .inr (flagEvents_ctrlIe hw hv)
  · exact .inr (flagEvents_clearInt hw)
  · exact .inr (flagEvents_overrun hw hb hoff)
  · exact .inr (flagEvents_accept hw (phase_idle_of_ne_busy hb))
  · exact .inr (flagEvents_of_eq (setBig_intStatus _ _ _) (setBig_ctrlIe _ _ _) (setBig_cmd _ _ _)
      (setBig_status _ _ _))

/-- A transaction whose aligned writes the script says are served (log 2). -/
theorem serve_flagEvents {s : State} {t : BusTxn}
    (hw : ∀ off v, s.resetLine = false → off < 0x10000 → off % 4 = 0 → t = writeAt s off v →
      servesWrite s off v) :
    (serve t s.popped).blockAtReset ∨ FlagEvents s (serve t s.popped) := by
  rcases serve_cases t s.popped with ⟨resp, f, e⟩ | ⟨off, v, hr, hlt, hal, ht, e⟩ <;> rw [e]
  · exact .inr (flagEvents_of_eq rfl rfl rfl rfl)
  · exact (memWrite_flagEvents (hw off v hr hlt hal ht)).imp_right
      (blockOnly_flagEvents s _ _ _ _ _)

theorem hostStep_flagEvents {s : State} (hs : s.script.head? = some .host) :
    (hostStep s.popped).blockAtReset ∨ FlagEvents s (hostStep s.popped) := by
  rcases hostStep_cases s.popped with ⟨ha, resp, f, e⟩ | ⟨off, w, ha, hhalt, hline, e⟩ <;> rw [e]
  · exact .inr (flagEvents_of_eq rfl rfl rfl rfl)
  · refine (serve_flagEvents fun off' v hr hlt hal ht => ?_).imp_right (blockOnly_flagEvents s _ _ _ _ _)
    have hoff : off = off' := Nat.add_left_cancel (congrArg BusTxn.addr ht)
    have hv : w = v := BusOp.write.inj (congrArg BusTxn.op ht)
    subst hoff hv
    exact ⟨hr, hlt, hal, .inr (.inr ⟨hs, hhalt, hline⟩)⟩

/-! ### The engine's turn -/

/-- What the engine's turn does to the flags: nothing, or a completion, which sets DONE_P and may record an
error. -/
theorem engineStep_flags {s t : State} (h : engineStep s = .next t) :
    t.ctrlIe = s.ctrlIe ∧ t.cmd = s.cmd ∧ t.intStatus.ovr = s.intStatus.ovr ∧
    (t.intStatus.doneP = s.intStatus.doneP ∧ t.status = s.status ∨
      s.engine.phase = .busy ∧ t.engine.phase = .idle ∧ t.intStatus.doneP = true ∧
        ((t.status.err = s.status.err ∧ t.status.errcode = s.status.errcode) ∨
          (t.status.err = true ∧ t.status.errcode ≠ .none))) := by
  have hbusy : engineReady s = true → s.engine.phase = .busy := fun hr => ((engineReady_iff s).mp hr).1
  rcases engineStep_cases s with ⟨-, e⟩ | ⟨hr, -, e⟩ | ⟨i, hr, -, e⟩
  · cases e.symm.trans h
    exact ⟨rfl, rfl, rfl, .inl ⟨rfl, rfl⟩⟩
  · cases e.symm.trans h
    exact ⟨rfl, rfl, rfl, .inr ⟨hbusy hr, rfl, rfl, .inr ⟨rfl, fun hc => nomatch hc⟩⟩⟩
  · rw [e] at h
    have herr := exec_error h
    rcases exec_cases i s with ⟨_, _, _, _, e⟩ | ⟨-, -, -, -, e⟩ <;> cases e.symm.trans h
    · refine ⟨rfl, rfl, rfl, .inr ⟨hbusy hr, rfl, rfl, herr.imp_right ?_⟩⟩
      rintro ⟨u, c, hc, e⟩
      rw [e]
      exact ⟨rfl, hc⟩
    · exact ⟨rfl, rfl, rfl, .inl ⟨rfl, rfl⟩⟩

/-- The engine's turn after a transaction that left the command in progress alone. -/
theorem FlagEvents.then_engineStep {s u t : State} (h : FlagEvents s u) (hsame : sameCommand s u)
    (hturn : engineStep u = .next t) : FlagEvents s t := by
  obtain ⟨-, hst, hcmd, heng⟩ := hsame
  obtain ⟨hie, hcmd', hovr, hflags⟩ := engineStep_flags hturn
  rw [hst, heng] at hflags
  have hrises : s.intStatus.doneP = false → u.intStatus.doneP = false := fun h0 =>
    eq_false_of_ne_true fun h1 => by
      obtain ⟨hb, hidle⟩ := h.doneP.2 h0 h1
      rw [heng] at hidle
      exact absurd (hb.symm.trans hidle) (by decide)
  refine ⟨⟨fun h1 h2 => ?_, fun h1 h2 => ?_⟩, ⟨fun h1 h2 => ?_, fun h1 h2 => ?_⟩, ?_, ?_, ?_⟩
  · rcases hflags with ⟨hd, -⟩ | ⟨-, -, hd, -⟩
    · exact h.doneP.1 h1 (hd.symm.trans h2)
    · exact absurd hd (ne_true_of_eq_false h2)
  · rcases hflags with ⟨hd, -⟩ | ⟨hb, hidle, -⟩
    · exact absurd (hd.symm.trans h2) (ne_true_of_eq_false (hrises h1))
    · exact ⟨hb, hidle⟩
  · exact h.ovr.1 h1 (hovr.symm.trans h2)
  · exact h.ovr.2 h1 (hovr.symm.trans h2)
  · rw [ieEvents, hie]
    exact h.ie
  · exact .inl (hcmd'.trans hcmd)
  · rcases hflags with ⟨-, hst'⟩ | ⟨hb, hidle, hd, hsame | ⟨he, hc⟩⟩
    · exact .inl (by rw [hst']; exact ⟨rfl, rfl⟩)
    · exact .inl hsame
    · exact .inr (.inl ⟨hb, hidle, hd, he, hc⟩)

/-! ### A step -/

theorem step_flagEvents {s s' : State} (h : step s = .next s') : s'.blockAtReset ∨ FlagEvents s s' := by
  have hpop : FlagEvents s s.popped := flagEvents_of_eq rfl rfl rfl rfl
  rcases step_cases h with ⟨-, he⟩ | ⟨t, hs, rfl⟩ | ⟨t, hs, hb, he⟩ | ⟨hs, rfl⟩ | ⟨a, -, rfl⟩ |
    ⟨-, rfl⟩ | ⟨-, rfl⟩ | ⟨-, rfl⟩
  · exact .inr (hpop.then_engineStep ⟨rfl, rfl, rfl, rfl⟩ he)
  · refine serve_flagEvents fun off v hr hlt hal ht => ⟨hr, hlt, hal, ?_⟩
    subst ht
    exact hs.imp_right fun hboth => .inl hboth.1
  · have hserve : (serve t s.popped).blockAtReset ∨ FlagEvents s (serve t s.popped) :=
      serve_flagEvents fun off v hr hlt hal ht => ⟨hr, hlt, hal, .inr (.inl (ht ▸ hs))⟩
    rcases hserve with hreset | hflags
    · rw [engineStep_of_blockAtReset hreset he]
      exact .inl hreset
    · rcases serve_busy (t := t) (s := s.popped) hb with hsame | hreset
      · exact .inr (hflags.then_engineStep hsame he)
      · rw [engineStep_of_blockAtReset hreset he]
        exact .inl hreset
  · exact hostStep_flagEvents hs
  · refine .inr ?_
    unfold deliver
    split <;> exact flagEvents_of_eq rfl rfl rfl rfl
  · exact .inr hpop
  · exact .inl (assertReset_blockAtReset _)
  · rcases releaseReset_cases s.popped with e | hreset
    · rw [e]
      exact .inr hpop
    · exact .inl hreset

/-- Settles O51: by the events of every agent. -/
theorem flagsHoldUntilTheirEvents : Obligations.FlagsHoldUntilTheirEvents := by
  refine fun s s' h => (step_flagEvents h).imp_right ?_
  rintro ⟨⟨hdone, hdone'⟩, ⟨hovr, hovr'⟩, hie, hcmd, herr⟩
  exact ⟨hdone, hdone', hovr, hovr', hie, hcmd, herr⟩

end Sys2Proof.Machine
end

section
/-! PROOF. The host's lines (30_encoding.md R116, R117): what each line changes, where a branch continues, and
the expansions of the pseudo-instructions. -/

namespace Sys2Proof.Machine

open Sys2Proof.Statements

/-! ### Scratch variables -/

@[simp] theorem scratchOf_setScratch_self (k : Scratch) (w : Word) (s : State) :
    scratchOf (setScratch k w s) k = w := Vector.getElem_set_self k.isLt

theorem scratchOf_setScratch_other {k m : Scratch} (h : m ≠ k) (w : Word) (s : State) :
    scratchOf (setScratch k w s) m = scratchOf s m :=
  Vector.getElem_set_ne k.isLt m.isLt (Fin.val_ne_of_ne h.symm)

/-! ### Labels -/

/-- The line of a label is the first that declares it (log 14). -/
theorem findLabel_eq_some_iff (prog : List HostStmt) (l pos : Nat) :
    findLabel prog l = some pos ↔
      prog[pos]? = some (.label l) ∧ ∀ q, q < pos → prog[q]? ≠ some (.label l) := by
  simp only [findLabel, List.findIdx?_eq_some_iff_getElem, decide_eq_true_eq]
  refine ⟨fun ⟨hlt, hpos, hfirst⟩ => ⟨List.getElem?_eq_some_iff.mpr ⟨hlt, hpos⟩, fun q hq he => ?_⟩,
    fun ⟨hpos, hfirst⟩ => ?_⟩
  · obtain ⟨_, hl⟩ := List.getElem?_eq_some_iff.mp he
    exact hfirst q hq hl
  · obtain ⟨hlt, he⟩ := List.getElem?_eq_some_iff.mp hpos
    exact ⟨hlt, he, fun q hq hl => hfirst q hq (List.getElem?_eq_some_iff.mpr ⟨_, hl⟩)⟩

theorem findLabel_eq_none_iff (prog : List HostStmt) (l : Nat) :
    findLabel prog l = none ↔ .label l ∉ prog := by
  simp only [findLabel, List.findIdx?_eq_none_iff, decide_eq_false_iff_not]
  exact ⟨fun h hmem => h _ hmem rfl, fun h st hst e => h (e ▸ hst)⟩

theorem continueAt_eq {s : State} {l pos : Nat}
    (h : findLabel s.host.prog l = some pos ∨
      findLabel s.host.prog l = none ∧ pos = s.host.prog.length) :
    continueAt l s = { s with host := { s.host with pos := pos } } := by
  rcases h with h | ⟨h, rfl⟩ <;> rw [continueAt, h] <;> rfl

/-! ### The host's turn -/

theorem hostStep_of_halted {s : State} (h : s.host.halted = true) : hostStep s = s := if_pos h

theorem hostStep_of_line {s : State} {st : HostStmt} (hhalt : s.host.halted = false)
    (hline : s.host.prog[s.host.pos]? = some st) : hostStep s = hostStmt st s := by
  rw [hostStep, if_neg (ne_true_of_eq_false hhalt), hline]

theorem hostStep_of_no_line {s : State} (hhalt : s.host.halted = false)
    (hline : s.host.prog[s.host.pos]? = none) : hostStep s = s := by
  rw [hostStep, if_neg (ne_true_of_eq_false hhalt), hline]

/-- Settles O56: by the meaning of each line, and the first line that declares a label. -/
theorem hostInternalStatements : Obligations.HostInternalStatements := by
  refine ⟨fun s k j imm => ⟨?_, ?_, fun st hst => ?_⟩, fun s k l pos hpos => ⟨fun hk => ?_, fun hk => ?_, ?_⟩,
    fun s k l => ⟨fun hk => if_neg hk, fun hk => if_neg (not_not.mpr hk), rfl, rfl⟩,
    fun s => ⟨rfl, hostStep_of_halted rfl, hostStep_of_halted, fun rest hh hs => ?_⟩,
    fun s hh => ⟨fun st => hostStep_of_line hh, hostStep_of_no_line hh⟩,
    fun prog l => ⟨findLabel_eq_some_iff prog l, findLabel_eq_none_iff prog l⟩⟩
  · exact scratchOf_setScratch_self k _ s
  · exact scratchOf_setScratch_self k _ s
  · have hwrite : ∀ w, (∀ m, m ≠ k → scratchOf (advance (setScratch k w s)) m = scratchOf s m) :=
      fun w m hm => scratchOf_setScratch_other hm w s
    rcases List.mem_pair.mp hst with rfl | rfl
    · exact ⟨hwrite _, rfl, rfl⟩
    · exact ⟨hwrite _, rfl, rfl⟩
  · rw [hostStmt, if_pos hk, continueAt_eq hpos]
  · rw [hostStmt, if_pos hk, continueAt_eq hpos]
  · rw [hostStmt, continueAt_eq hpos]
  · rw [step_cons hs, perform]
    exact congrArg _ (hostStep_of_halted (s := { s with script := rest }) hh)

/-! ### Accesses -/

theorem memWrite_host (off : Nat) (v : Word) (s : State) : (memWrite off v s).host = s.host := by
  rcases memWrite_cases off v s with e | ⟨-, -, e⟩ | ⟨-, -, e⟩ | ⟨-, e⟩ | ⟨-, -, e⟩ | ⟨-, -, e⟩ |
    ⟨r, i, -, -, -, -, e⟩ <;> simp [e]

/-- `WR` and `WRH` out of reset are their bus write, and the host goes to the next line. -/
theorem hostWrite_eq {s : State} {off : Nat} (w : Word) (hr : s.resetLine = false)
    (hlt : off < 0x10000) (hal : off % 4 = 0) :
    hostWrite off w s =
      { memWrite off w s with
        response := .written, host := { s.host with pos := s.host.pos + 1 } } := by
  have hserve : serve (hostTxn s (.write w) off) s = { memWrite off w s with response := .written } :=
    serve_writeAt w hr hlt hal
  rw [hostWrite, if_neg (ne_true_of_eq_false hr), hserve, advance, memWrite_host]

/-- `RD` out of reset leaves the word of its read in its scratch variable. -/
theorem hostRead_eq {s : State} {off : Nat} (k : Scratch) (hr : s.resetLine = false)
    (hlt : off < 0x10000) (hal : off % 4 = 0) :
    hostRead k off s =
      advance (setScratch k (memRead s off) { s with response := .data (memRead s off) }) := by
  have hserve : serve (hostTxn s .read off) s = { s with response := .data (memRead s off) } :=
    serve_readAt hr hlt hal
  rw [hostRead, if_neg (ne_true_of_eq_false hr), hserve]
  rfl

theorem limbOf_eq (x i : Nat) : limbOf x i = BitVec.ofNat 32 (x / 2 ^ (32 * i)) :=
  BitVec.eq_of_toNat_eq (by rw [limbOf_toNat, BitVec.toNat_ofNat])

/-- Settles O57: by the served access of each line; the expansions are the definitions. -/
theorem hostAccessStatements : Obligations.HostAccessStatements := by
  refine ⟨fun s off k w hlt hal hr => ⟨?_, ?_, ?_⟩,
    fun i p l limbs value r => ⟨?_, rfl, rfl, rfl, rfl, rfl⟩⟩
  · rw [serve_writeAt w hr hlt hal]
    exact hostWrite_eq w hr hlt hal
  · rw [serve_writeAt _ hr hlt hal]
    exact hostWrite_eq _ hr hlt hal
  · rw [hostStmt, hostRead_eq k hr hlt hal]
    exact ⟨scratchOf_setScratch_self k _ _, fun m hm => scratchOf_setScratch_other hm _ _, rfl, rfl, rfl,
      rfl, rfl⟩
  · simp only [ldbig, limbOf_eq]

end Sys2Proof.Machine
end

section
/-! PROOF. The host program `POLL` (30_encoding.md R117): one round, with the block idle and with it busy. -/

namespace Sys2Proof.Machine

open Sys2Proof.Statements

/-! ### Host lines -/

/-- A host's turn on a line that stands at its place. -/
theorem step_hostLine {s : State} {st : HostStmt} {rest : List Event} (hs : s.script = .host :: rest)
    (hhalt : s.host.halted = false) (hline : s.host.prog[s.host.pos]? = some st) :
    step s = .next (hostStmt st { s with script := rest }) :=
  (step_cons hs).trans (congrArg _ (hostStep_of_line (s := { s with script := rest }) hhalt hline))

theorem hostAt_line {s : State} {pre code post : List HostStmt} (h : hostAt s pre code post) {j : Nat}
    (hj : j < code.length) : s.host.prog[pre.length + j]? = code[j]? := by
  obtain ⟨hprog, -, -⟩ := h
  rw [hprog, List.append_assoc, List.getElem?_append_right (Nat.le_add_right _ _), Nat.add_sub_cancel_left,
    List.getElem?_append_left hj]

/-! ### POLL -/

/-- `s`, with the host at line `pos` and other scratch variables: all that a `POLL` changes. -/
def State.polled (s : State) (pos : Nat) (scratch : Vector Word 8) (resp : BusResponse)
    (script : List Event) : State :=
  { s with
    host := { s.host with pos := pos, scratch := scratch }, response := resp, script := script }

/-- A host's turn of a `POLL` round, on the line it stands at. -/
theorem step_polled {s : State} {st : HostStmt} {pos : Nat} (hhalt : s.host.halted = false)
    (hline : s.host.prog[pos]? = some st) (scratch : Vector Word 8) (resp : BusResponse)
    (rest : List Event) :
    step (s.polled pos scratch resp (.host :: rest)) =
      .next (hostStmt st (s.polled pos scratch resp rest)) :=
  step_hostLine (s := s.polled pos scratch resp (.host :: rest)) rfl hhalt hline

/-- STATUS and 1 is BUSY. -/
theorem statusWord_and_one (s : State) :
    statusWord s &&& 1#32 = if s.engine.phase = .busy then 1#32 else 0#32 := by
  obtain ⟨hbusy, -⟩ := statusWord_flags s
  rw [BitVec.and_one_eq_setWidth_ofBool_getLsbD, hbusy]
  split
  next hb => rw [decide_eq_true hb]; rfl
  next hb => rw [decide_eq_false hb]; rfl

/-- The scratch variables after a `POLL` round. -/
def pollScratch (s : State) : Vector Word 8 :=
  (s.host.scratch.set 7 (statusWord s)).set 7 (statusWord s &&& 1#32)

theorem pollScratch_self (s : State) : (pollScratch s)[7] = statusWord s &&& 1#32 :=
  Vector.getElem_set_self _

theorem pollScratch_other (s : State) {k : Scratch} (hk : k ≠ 7) : (pollScratch s)[k] = scratchOf s k := by
  have hne : 7 ≠ k.val := Fin.val_ne_of_ne hk.symm
  exact (Vector.getElem_set_ne _ k.isLt hne).trans (Vector.getElem_set_ne _ k.isLt hne)

/-- The first three lines of a `POLL` leave BUSY in `h7`. -/
theorem run_poll_lines {s : State} {p : Nat} {pre post : List HostStmt} {rest : List Event}
    (hat : hostAt s pre (poll p) post) (hr : s.resetLine = false)
    (hs : s.script = .host :: .host :: .host :: rest) (k : Nat) :
    core.run (k + 3) s =
      core.run k (s.polled (pre.length + 3) (pollScratch s) (.data (statusWord s)) rest) := by
  have hhost := hat
  obtain ⟨-, hpos, hhalt⟩ := hhost
  have hlabel : step s =
      .next (s.polled (pre.length + 1) s.host.scratch s.response (.host :: .host :: rest)) := by
    have hline : s.host.prog[s.host.pos]? = some (.label p) := by
      rw [hpos]
      exact hostAt_line hat (j := 0) (show 0 < 4 by decide)
    rw [step_hostLine hs hhalt hline, ← hpos]
    rfl
  have hread : step (s.polled (pre.length + 1) s.host.scratch s.response (.host :: .host :: rest)) =
      .next (s.polled (pre.length + 2) (s.host.scratch.set 7 (statusWord s)) (.data (statusWord s))
        (.host :: rest)) := by
    rw [step_polled hhalt (hostAt_line hat (j := 1) (show 1 < 4 by decide))]
    exact congrArg _ (hostRead_eq 7 hr (by decide) (by decide))
  have hmask : step (s.polled (pre.length + 2) (s.host.scratch.set 7 (statusWord s))
      (.data (statusWord s)) (.host :: rest)) =
      .next (s.polled (pre.length + 3) (pollScratch s) (.data (statusWord s)) rest) := by
    have hh7 : scratchOf (s.polled (pre.length + 2) (s.host.scratch.set 7 (statusWord s))
        (.data (statusWord s)) rest) 7 = statusWord s := Vector.getElem_set_self _
    rw [step_polled hhalt (hostAt_line hat (j := 2) (show 2 < 4 by decide)), hostStmt, hh7]
    rfl
  rw [run_succ hlabel, run_succ hread, run_succ hmask]

/-- The label of a `POLL` that no line before it declares names its first line. -/
theorem findLabel_poll {s : State} {p : Nat} {pre post : List HostStmt} (hat : hostAt s pre (poll p) post)
    (hfresh : ∀ st ∈ pre, st ≠ .label p) : findLabel s.host.prog p = some pre.length := by
  refine (findLabel_eq_some_iff _ _ _).mpr
    ⟨hostAt_line hat (j := 0) (show 0 < 4 by decide), fun q hq hl => ?_⟩
  obtain ⟨hprog, -, -⟩ := hat
  rw [hprog, List.append_assoc, List.getElem?_append_left hq] at hl
  exact hfresh _ (List.mem_of_getElem? hl) rfl

/-- Where the host goes on after a `POLL` round. -/
def pollEnd (s : State) (pre : List HostStmt) : Nat :=
  if s.engine.phase = .busy then pre.length else pre.length + 4

/-- The branch of a `POLL` goes back while BUSY is 1. -/
theorem hostStmt_poll_branch {s : State} {p : Nat} {pre : List HostStmt}
    (hlabel : findLabel s.host.prog p = some pre.length) (rest : List Event) :
    hostStmt (.bnz 7 p) (s.polled (pre.length + 3) (pollScratch s) (.data (statusWord s)) rest) =
      s.polled (pollEnd s pre) (pollScratch s) (.data (statusWord s)) rest := by
  have hh7 : scratchOf (s.polled (pre.length + 3) (pollScratch s) (.data (statusWord s)) rest) 7 =
      statusWord s &&& 1#32 := pollScratch_self s
  rw [hostStmt, hh7, statusWord_and_one, pollEnd]
  split
  next hb =>
    rw [if_pos (by decide)]
    exact continueAt_eq (.inl hlabel)
  next hb =>
    rw [if_neg (by decide)]
    rfl

/-- One round of a `POLL`. -/
theorem run_poll {s : State} {p : Nat} {pre post : List HostStmt} {rest : List Event}
    (hat : hostAt s pre (poll p) post) (hfresh : ∀ st ∈ pre, st ≠ .label p) (hr : s.resetLine = false)
    (hs : s.script = List.replicate 4 .host ++ rest) :
    core.run 4 s =
      .next (s.polled (pollEnd s pre) (pollScratch s) (.data (statusWord s)) rest) := by
  have hhost := hat
  obtain ⟨-, -, hhalt⟩ := hhost
  have hbranch := step_polled hhalt (hostAt_line hat (j := 3) (show 3 < 4 by decide)) (pollScratch s)
    (.data (statusWord s)) rest
  exact (run_poll_lines hat hr hs 1).trans ((run_one _).trans
    (hbranch.trans (congrArg _ (hostStmt_poll_branch (findLabel_poll hat hfresh) rest))))

/-- Settles O59: a round leaves BUSY in `h7`, and its branch goes back while BUSY is 1. -/
theorem pollEndsExactlyWhenIdle : Obligations.PollEndsExactlyWhenIdle := by
  intro s p pre post rest hat hfresh hr hs
  have hhost := hat
  obtain ⟨-, -, hhalt⟩ := hhost
  refine ⟨_, run_poll hat hfresh hr hs, rfl, rfl, rfl, hhalt, fun k hk => pollScratch_other s hk,
    fun hidle => ?_, fun hbusy => ?_⟩
  · have hphase : s.engine.phase ≠ .busy := by
      rw [hidle]
      decide
    exact ⟨if_neg hphase, (pollScratch_self s).trans ((statusWord_and_one s).trans (if_neg hphase))⟩
  · exact ⟨if_pos hbusy, (pollScratch_self s).trans ((statusWord_and_one s).trans (if_pos hbusy))⟩

end Sys2Proof.Machine
end

section
/-! PROOF. The host program `LDBIG` (30_encoding.md R117): its writes one by one, and all of them, for every `L`. -/

namespace Sys2Proof.Machine

open Sys2Proof.Statements

/-! ### The value half loaded -/

/-- `x` with its limbs below `i` replaced by those of `y`: the register after `i` writes of a `LDBIG`. -/
def withLowLimbs (x y i : Nat) : Nat := x / 2 ^ (32 * i) * 2 ^ (32 * i) + y % 2 ^ (32 * i)

theorem withLowLimbs_zero (x y : Nat) : withLowLimbs x y 0 = x := by
  simp [withLowLimbs, Nat.mod_one]

/-- The next write of the `LDBIG`. -/
theorem putLimb_withLowLimbs (x y i : Nat) :
    putLimb (withLowLimbs x y i) i (limbOf y i) = withLowLimbs x y (i + 1) := by
  have hpos : 0 < 2 ^ (32 * i) := by positivity
  have hlow : y % 2 ^ (32 * i) < 2 ^ (32 * i) := Nat.mod_lt _ hpos
  have hdiv : withLowLimbs x y i / 2 ^ (32 * i) = x / 2 ^ (32 * i) := by
    rw [withLowLimbs, Nat.add_comm, Nat.add_mul_div_right _ _ hpos, Nat.div_eq_of_lt hlow, Nat.zero_add]
  have hmod : withLowLimbs x y i % 2 ^ (32 * i) = y % 2 ^ (32 * i) := by
    rw [withLowLimbs, Nat.add_comm, Nat.add_mul_mod_self_right, Nat.mod_mod]
  rw [putLimb_eq, hdiv, hmod, limbOf_toNat, withLowLimbs, Nat.mul_succ, pow_add, Nat.mod_mul,
    Nat.div_div_eq_div_mul]
  ring

/-- After all `L` limbs nothing of a register's old value is left. -/
theorem withLowLimbs_limbs {p : Params} {x y : Nat} (hx : x < p.bound) (hy : y < p.bound) :
    withLowLimbs x y p.limbs = y := by
  have hbound : p.bound = 2 ^ (32 * p.limbs) := rfl
  rw [withLowLimbs, ← hbound, Nat.div_eq_of_lt hx, Nat.zero_mul, Nat.zero_add, Nat.mod_eq_of_lt hy]

theorem withLowLimbs_lt {p : Params} {x : Nat} (y : Nat) (hx : x < p.bound) {i : Nat} (hi : i ≤ p.limbs) :
    withLowLimbs x y i < p.bound := by
  induction i with
  | zero => rwa [withLowLimbs_zero]
  | succ i ih =>
    rw [← putLimb_withLowLimbs]
    exact putLimb_lt _ (ih (Nat.le_of_succ_le hi)) hi

/-! ### LDBIG -/

/-- A run is followed by another from the state it ends in. -/
theorem core_run_add {M : Host.Core} {i : Nat} {s t : M.State} (h : M.run i s = .next t) (k : Nat) :
    M.run (i + k) s = M.run k t := by
  induction i generalizing s with
  | zero =>
    cases h
    rw [Nat.zero_add]
  | succ i ih =>
    rw [Nat.add_right_comm, Host.Core.run]
    rw [Host.Core.run] at h
    cases hstep : M.step s with
    | next u =>
      rw [hstep] at h
      exact ih h
    | fault r =>
      rw [hstep] at h
      cases h
    | refused r =>
      rw [hstep] at h
      cases h

theorem run_add {s t : State} {i : Nat} (h : core.run i s = .next t) (k : Nat) :
    core.run (i + k) s = core.run k t :=
  core_run_add (M := core) h k

/-- `s`, with `x` in register `r` and the host `i` lines on: all that the lines of a `LDBIG` change. -/
def State.loaded (s : State) (r : BigReg) (x i : Nat) (resp : BusResponse) (script : List Event) : State :=
  { setBig r x s with
    host := { s.host with pos := s.host.pos + i }, response := resp, script := script }

section

variable (s : State) (r : BigReg) (x i : Nat) (resp : BusResponse) (script : List Event)

@[simp] theorem loaded_params : (s.loaded r x i resp script).params = s.params := setBig_params s r x
@[simp] theorem loaded_engine : (s.loaded r x i resp script).engine = s.engine := setBig_engine s r x
@[simp] theorem loaded_resetLine : (s.loaded r x i resp script).resetLine = s.resetLine :=
  setBig_resetLine s r x
@[simp] theorem loaded_host :
    (s.loaded r x i resp script).host = { s.host with pos := s.host.pos + i } := rfl

theorem getBig_loaded_self {x : Nat} (hx : x < s.params.bound) :
    getBig r (s.loaded r x i resp script) = x :=
  (getBig_setBig_self s r x).trans (Nat.mod_eq_of_lt hx)

theorem getBig_loaded_other {q : BigReg} (hq : q ≠ r) :
    getBig q (s.loaded r x i resp script) = getBig q s := getBig_setBig_other s hq x

theorem loaded_wf (h : s.big.wf s.params) :
    (s.loaded r x i resp script).big.wf (s.loaded r x i resp script).params := by
  rw [loaded_params]
  exact setBig_wf h r x

theorem setBig_loaded (y : Nat) :
    setBig r y (s.loaded r x i resp script) = s.loaded r y i resp script := by
  cases r <;> rfl

end

theorem setBig_getBig {s : State} (hwf : s.big.wf s.params) (r : BigReg) : setBig r (getBig r s) s = s := by
  have hlt := getBig_lt hwf r
  cases r <;> simp only [setBig, Nat.mod_eq_of_lt hlt] <;> rfl

/-- Before its first line a `LDBIG` has changed nothing. -/
theorem loaded_getBig_zero {s : State} (hwf : s.big.wf s.params) (r : BigReg) :
    s.loaded r (getBig r s) 0 s.response s.script = s := by
  rw [State.loaded, setBig_getBig hwf]
  rfl

theorem getElem?_ldbig {limbs i : Nat} (hi : i < limbs) (r : BigReg) (value : Nat) :
    (ldbig limbs r value)[i]? = some (.wr (windowBase r + 4 * i) (limbOf value i)) := by
  simp [ldbig, hi]

theorem length_ldbig (limbs : Nat) (r : BigReg) (value : Nat) : (ldbig limbs r value).length = limbs := by
  simp [ldbig]

/-- What a host needs of the block to load operands: it is idle, out of reset and in canonical form. -/
structure State.ReadyToLoad (s : State) : Prop where
  params : s.params.wf = true
  regs : s.big.wf s.params
  idle : s.engine.phase = .idle
  running : s.resetLine = false

section

variable {s : State} {r : BigReg} {value : Nat} {pre post : List HostStmt} (h : s.ReadyToLoad)
  (hw : hostWritable r = true) (hat : hostAt s pre (ldbig s.params.limbs r value) post)

include h hw hat

/-- Line `i` of a `LDBIG` writes limb `i`. -/
theorem step_ldbig_line {i x : Nat} (hi : i < s.params.limbs) (hx : x < s.params.bound)
    (resp : BusResponse) (rest : List Event) :
    step (s.loaded r x i resp (.host :: rest)) =
      .next (s.loaded r (putLimb x i (limbOf value i)) (i + 1) .written rest) := by
  have hhost := hat
  obtain ⟨-, hpos, hhalt⟩ := hhost
  have hline : s.host.prog[s.host.pos + i]? = some (.wr (windowBase r + 4 * i) (limbOf value i)) := by
    rw [hpos, hostAt_line hat (by rwa [length_ldbig]), getElem?_ldbig hi]
  have hL := (limbs_of_wf h.params).2
  obtain ⟨hlt, hal⟩ := window_in_space r (i := i) (by omega)
  have hturn := step_hostLine (s := s.loaded r x i resp (.host :: rest)) rfl hhalt hline
  have hwrite := hostWrite_eq (s := s.loaded r x i resp rest) (limbOf value i)
    (by rw [loaded_resetLine, h.running]) hlt hal
  rw [memWrite_limb (by rw [loaded_params, h.params]) (by rwa [loaded_params]) hw
    (by rw [loaded_engine, h.idle]), getBig_loaded_self _ _ _ _ _ hx, setBig_loaded] at hwrite
  exact hturn.trans (congrArg _ hwrite)

/-- The first `i` lines of a `LDBIG`. -/
theorem run_ldbig_lines {i : Nat} (hi : i ≤ s.params.limbs) {rest : List Event}
    (hs : s.script = List.replicate i .host ++ rest) :
    ∃ resp, core.run i s =
      .next (s.loaded r (withLowLimbs (getBig r s) value i) i resp rest) := by
  induction i generalizing rest with
  | zero =>
    have hs : s.script = rest := hs
    refine ⟨s.response, ?_⟩
    rw [withLowLimbs_zero, ← hs, loaded_getBig_zero h.regs]
    rfl
  | succ i ih =>
    rw [List.replicate_succ', List.append_assoc] at hs
    obtain ⟨resp, hrun⟩ := ih (Nat.le_of_succ_le hi) hs
    have hlt := withLowLimbs_lt value (getBig_lt h.regs r) (Nat.le_of_succ_le hi)
    refine ⟨.written, ?_⟩
    rw [run_add hrun 1, run_one, ← putLimb_withLowLimbs]
    exact step_ldbig_line h hw hat hi hlt resp rest

/-- A whole `LDBIG`. -/
theorem run_ldbig (hv : value < s.params.bound) {rest : List Event}
    (hs : s.script = List.replicate s.params.limbs .host ++ rest) :
    ∃ resp, core.run s.params.limbs s = .next (s.loaded r value s.params.limbs resp rest) := by
  obtain ⟨resp, hrun⟩ := run_ldbig_lines h hw hat le_rfl hs
  rw [withLowLimbs_limbs (getBig_lt h.regs r) hv] at hrun
  exact ⟨resp, hrun⟩

end

/-- Settles O58: by induction over the lines, with the register half loaded between them. -/
theorem ldbigPlacesValue : Obligations.LdbigPlacesValue := by
  intro s r value pre post rest hp hwf hw hv hidle hr hat hs
  obtain ⟨resp, hrun⟩ := run_ldbig ⟨hp, hwf, hidle, hr⟩ hw hat hv hs
  obtain ⟨-, hpos, -⟩ := hat
  refine ⟨_, hrun, getBig_loaded_self _ _ _ _ _ hv, fun q hq => getBig_loaded_other _ _ _ _ _ _ hq, ?_,
    rfl, ?_⟩
  · rw [loaded_host, hpos]
  · cases r <;> rfl

end Sys2Proof.Machine
end

section
/-! PROOF. A MODEXP driven by the host (40_modexp.md R134, 70_reset_and_hazards.md R244): the operands loaded one
after another, the command issued, and the engine's turn. -/

namespace Sys2Proof.Machine

open Sys2Proof.Statements

/-! ### Host programs one after another -/

/-- From the first lines of a program to the lines after them. -/
theorem hostAt_after {s t : State} {pre code more post : List HostStmt}
    (h : hostAt s pre (code ++ more) post)
    (ht : t.host = { s.host with pos := s.host.pos + code.length }) : hostAt t (pre ++ code) more post := by
  obtain ⟨hprog, hpos, hhalt⟩ := h
  rw [hostAt, ht, List.length_append, ← hpos, ← List.append_assoc] at *
  exact ⟨by rw [hprog, List.append_assoc pre], rfl, hhalt⟩

/-- A `LDBIG` with more lines after it: the next one finds the block ready again. -/
theorem run_ldbig_then {s : State} {p : Params} {r : BigReg} {value : Nat} {pre more post : List HostStmt}
    {rest : List Event} (h : s.ReadyToLoad) (hp : s.params = p) (hw : hostWritable r = true)
    (hv : value < p.bound) (hat : hostAt s pre (ldbig p.limbs r value ++ more) post)
    (hs : s.script = List.replicate p.limbs .host ++ rest) :
    ∃ t, core.run p.limbs s = .next t ∧ t.ReadyToLoad ∧ t.params = p ∧ t.script = rest ∧
      hostAt t (pre ++ ldbig p.limbs r value) more post ∧
      getBig r t = value ∧ ∀ q, q ≠ r → getBig q t = getBig q s := by
  subst hp
  have hcode : hostAt s pre (ldbig s.params.limbs r value) (more ++ post) := by
    obtain ⟨hprog, hrest⟩ := hat
    exact ⟨by rw [hprog]; simp, hrest⟩
  obtain ⟨resp, hrun⟩ := run_ldbig h hw hcode hv hs
  refine ⟨_, hrun, ⟨?_, loaded_wf s r _ _ _ _ h.regs, ?_, ?_⟩, loaded_params s r _ _ _ _, rfl,
    hostAt_after hat (by rw [loaded_host, length_ldbig]), getBig_loaded_self _ _ _ _ _ hv,
    fun q hq => getBig_loaded_other _ _ _ _ _ _ hq⟩
  · rw [loaded_params, h.params]
  · rw [loaded_engine, h.idle]
  · rw [loaded_resetLine, h.running]

/-- `s` after the acceptance of `w` from a `WR` line. -/
def State.issued (s : State) (w : Word) (script : List Event) : State :=
  { accept w s with
    response := .written, host := { s.host with pos := s.host.pos + 1 }, script := script }

/-- The line of an `ISSUE` has its command accepted. -/
theorem step_issue_line {s : State} {i : Instr} {pre post : List HostStmt} {rest : List Event}
    (h : s.ReadyToLoad) (hat : hostAt s pre (issue i) post) (hs : s.script = .host :: rest) :
    step s = .next (s.issued (encode i) rest) := by
  have hline : s.host.prog[pre.length]? = some (.wr 0x014 (encode i)) :=
    hostAt_line hat (j := 0) Nat.one_pos
  obtain ⟨-, hpos, hhalt⟩ := hat
  rw [← hpos] at hline
  have hidle : ¬ busy { s with script := rest } = true := by simp [busy, h.idle]
  have hwrite := hostWrite_eq (s := { s with script := rest }) (encode i) h.running
    (off := 0x014) (by decide) (by decide)
  rw [memWrite_cmd, if_neg hidle] at hwrite
  have hturn := step_hostLine hs hhalt hline
  exact hturn.trans (congrArg _ hwrite)

/-- The engine's turn after an `ISSUE` runs the command, on the registers that the host loaded. -/
theorem run_issue {s : State} {i : Instr} {pre post : List HostStmt} {rest : List Event}
    (h : s.ReadyToLoad) (hat : hostAt s pre (issue i) post) (hs : s.script = .host :: .engine :: rest) :
    core.run 2 s = exec i (s.issued (encode i) rest) := by
  have hturn : step (s.issued (encode i) (.engine :: rest)) = exec i (s.issued (encode i) rest) := by
    rw [step_cons rfl, perform_engine]
    exact engineStep_encode (s := s.issued (encode i) rest) rfl rfl
  exact (run_succ (step_issue_line h hat hs) 1).trans ((run_one _).trans hturn)

/-- Settles O60: each `LDBIG` leaves the block ready for the next, and the MODEXP finds the three operands. -/
theorem hostDrivenModexp : Obligations.HostDrivenModexp := by
  intro s g a n post rest hinv hidle hr hg ha hn hpos hat hs
  have hs : s.script = List.replicate s.params.limbs .host ++ (List.replicate s.params.limbs .host ++
      (List.replicate s.params.limbs .host ++ .host :: .engine :: rest)) := by
    rw [hs, show 3 * s.params.limbs + 1 = s.params.limbs + (s.params.limbs + (s.params.limbs + 1)) by ring]
    simp [List.replicate_add]
  rw [List.append_assoc, List.append_assoc] at hat
  obtain ⟨t1, hrun1, hready1, hp1, hs1, hat1, hval1, -⟩ :=
    run_ldbig_then ⟨hinv.params, hinv.regs, hidle, hr⟩ rfl rfl hg hat hs
  obtain ⟨t2, hrun2, hready2, hp2, hs2, hat2, hval2, hother2⟩ :=
    run_ldbig_then hready1 hp1 rfl ha hat1 hs1
  obtain ⟨t3, hrun3, hready3, -, hs3, hat3, hval3, hother3⟩ :=
    run_ldbig_then hready2 hp2 rfl hn hat2 hs2
  have hta : t3.big.a = g := (hother3 .a (by decide)).trans ((hother2 .a (by decide)).trans hval1)
  have htb : t3.big.b = a := (hother3 .b (by decide)).trans hval2
  have htn : t3.big.n = n := hval3
  have hne : t3.big.n ≠ 0 := htn ▸ hpos.ne'
  have hrun : core.run (3 * s.params.limbs + 2) s = exec .modexp (t3.issued (encode .modexp) rest) := by
    rw [show 3 * s.params.limbs + 2 = s.params.limbs + (s.params.limbs + (s.params.limbs + 2)) by ring,
      run_add hrun1, run_add hrun2, run_add hrun3, run_issue hready3 hat3 hs3]
  obtain ⟨-, hcommit⟩ := modexpWritesPowerModN.2 (t3.issued (encode .modexp) rest) hready3.regs
  refine ⟨_, hrun.trans (hcommit hne), ?_, hta, htb, htn, rfl, rfl, rfl, rfl⟩
  rw [← hta, ← htb, ← htn]
  rfl

end Sys2Proof.Machine
end
